-- ==== Sys2Proof/Word.lean ====
section
/-! DEFINITION. Word types: the 64-bit command word of the port (30_encoding.md R60) and the byte, the only
access width of the frame-buffer memory (20_memory.md R44). Bit i has weight 2^i (00_scope.md R7). -/

namespace Sys2Proof

/-- A command word (R60). It is delivered whole: it has no byte order. -/
abbrev Word := BitVec 64

/-- A byte of FB (R7, R44). -/
abbrev Byte := BitVec 8

end Sys2Proof
end

