-- ==== Sys2Proof/Syntax.lean ====
section
/-! DEFINITION. The commands of the block: one constructor per row of spec/opcode_table.json (30_encoding.md R63,
R64), operands as the integers R62 assembles. -/

namespace Sys2Proof

/-- The selector of CLEAR (30_encoding.md R67, 42_framebuffer.md R144): EDIT is 0, DISPLAY is 1. -/
inductive BufferRole where
  | edit | display
  deriving DecidableEq, Repr

/-- The direction of COPY (30_encoding.md R67, 42_framebuffer.md R146): D2E is 0, E2D is 1. -/
inductive CopyDir where
  | d2e | e2d
  deriving DecidableEq, Repr

/-- A command. `x` and `y` are signed, every other operand is unsigned (30_encoding.md R62). -/
inductive Instr where
  | init
  | enable
  | disable
  | swap
  | clear (sel : BufferRole)
  | copy (dir : CopyDir)
  | setpixel (x y : Int) (r g b : Nat)
  | setpixel565 (x y : Int) (c : Nat)
  | getpixel (x y : Int)
  | setwidth (v : Nat)
  | setheight (v : Nat)
  | setmuxbits (v : Nat)
  | setcolordepth (v : Nat)
  | setdbuf (v : Nat)
  | setpanels (v : Nat)
  | setrotate (v : Nat)
  | setflip (v : Nat)
  | setcolororder (v : Nat)
  | setscanpattern (v : Nat)
  | setblockpattern (v : Nat)
  | setcoloroffset (v : Nat)
  | setbrightness (v : Nat)
  | setfps (v : Nat)
  | setbushz (v : Nat)
  deriving DecidableEq, Repr

end Sys2Proof
end

