-- ==== Sys2Proof/WellFormed.lean ====
section
/-! DEFINITION. Which commands an encoding exists for: every operand inside the range of its field
(30_encoding.md R61, R62). -/

namespace Sys2Proof

/-- A coordinate fits a 16-bit two's complement field (R62). -/
abbrev coordOk (v : Int) : Prop := -32768 ≤ v ∧ v ≤ 32767

/-- An unsigned operand fits a field of `n` bits (R62). -/
abbrev fieldOk (n v : Nat) : Prop := v < 2 ^ n

/-- Every operand of the command fits its field (R61, R62). -/
def Instr.wellFormed : Instr → Bool
  | .init => true
  | .enable => true
  | .disable => true
  | .swap => true
  | .clear _ => true
  | .copy _ => true
  | .setpixel x y r g b => decide (coordOk x ∧ coordOk y ∧ fieldOk 8 r ∧ fieldOk 8 g ∧ fieldOk 8 b)
  | .setpixel565 x y c => decide (coordOk x ∧ coordOk y ∧ fieldOk 16 c)
  | .getpixel x y => decide (coordOk x ∧ coordOk y)
  | .setwidth v => decide (fieldOk 32 v)
  | .setheight v => decide (fieldOk 32 v)
  | .setmuxbits v => decide (fieldOk 32 v)
  | .setcolordepth v => decide (fieldOk 32 v)
  | .setdbuf v => decide (fieldOk 32 v)
  | .setpanels v => decide (fieldOk 32 v)
  | .setrotate v => decide (fieldOk 32 v)
  | .setflip v => decide (fieldOk 32 v)
  | .setcolororder v => decide (fieldOk 32 v)
  | .setscanpattern v => decide (fieldOk 32 v)
  | .setblockpattern v => decide (fieldOk 32 v)
  | .setcoloroffset v => decide (fieldOk 32 v)
  | .setbrightness v => decide (fieldOk 32 v)
  | .setfps v => decide (fieldOk 32 v)
  | .setbushz v => decide (fieldOk 32 v)

end Sys2Proof
end

