-- ==== Sys2Proof/Decode.lean ====
section
/-! DEFINITION. The decoder of 64-bit command words (30_encoding.md R60 to R66), total, refusing an illegal word by
name, and the encoder, written from the same formats (R61). -/

namespace Sys2Proof

/-- Why a word is illegal (30_encoding.md R65). -/
inductive IllegalWord where
  /-- OPC is not in the table of R63 -/
  | reservedOpc
  /-- OPC is 0x10 and REG is not in the table of R64 -/
  | reservedReg
  /-- a "zero" field of the format is not 0 -/
  | nonzeroZero
  deriving DecidableEq, Repr

/-- The answer of the decoder: a command, or the reason the word is illegal. -/
inductive Decoded where
  | ok (i : Instr)
  | illegal (why : IllegalWord)
  deriving DecidableEq, Repr

/-- `len` bits of the word from bit `lo` up (00_scope.md R7). -/
def wordField (w : Word) (lo len : Nat) : BitVec len := w.extractLsb' lo len

/-- OPC, bits 63:56 of every format (R60). -/
def opcField (w : Word) : BitVec 8 := wordField w 56 8

/-- `sext_16` (00_scope.md R7, 30_encoding.md R62). -/
def sext16 (v : BitVec 16) : Int := v.toInt

/-- The command, if the format's "zero" field holds 0 (R65). -/
def needZero {n : Nat} (zero : BitVec n) (i : Instr) : Decoded :=
  if zero = 0#n then .ok i else .illegal .nonzeroZero

/-- Format Z (R61): no operand. -/
def decodeZ (w : Word) (i : Instr) : Decoded := needZero (wordField w 0 56) i

/-- Format S (R61): one selector bit. -/
def decodeS (w : Word) (s0 s1 : Instr) : Decoded :=
  needZero (wordField w 1 55) (if wordField w 0 1 = 0#1 then s0 else s1)

/-- Format P (R61): SETPIXEL. -/
def decodeP (w : Word) : Decoded :=
  .ok (.setpixel (sext16 (wordField w 40 16)) (sext16 (wordField w 24 16))
    (wordField w 16 8).toNat (wordField w 8 8).toNat (wordField w 0 8).toNat)

/-- Format H (R61): SETPIXEL565. -/
def decodeH (w : Word) : Decoded :=
  needZero (wordField w 0 8) (.setpixel565 (sext16 (wordField w 40 16)) (sext16 (wordField w 24 16))
    (wordField w 8 16).toNat)

/-- Format G (R61): GETPIXEL. -/
def decodeG (w : Word) : Decoded :=
  needZero (wordField w 0 24) (.getpixel (sext16 (wordField w 40 16)) (sext16 (wordField w 24 16)))

/-- The setter that REG selects, with operand `v` (R64). -/
def setterOf (reg v : Nat) : Option Instr :=
  match reg with
  | 0x01 => some (.setwidth v)
  | 0x02 => some (.setheight v)
  | 0x03 => some (.setmuxbits v)
  | 0x04 => some (.setcolordepth v)
  | 0x05 => some (.setdbuf v)
  | 0x06 => some (.setpanels v)
  | 0x07 => some (.setrotate v)
  | 0x08 => some (.setflip v)
  | 0x09 => some (.setcolororder v)
  | 0x0A => some (.setscanpattern v)
  | 0x0B => some (.setblockpattern v)
  | 0x0C => some (.setcoloroffset v)
  | 0x0D => some (.setbrightness v)
  | 0x0E => some (.setfps v)
  | 0x0F => some (.setbushz v)
  | _ => none

/-- Format W (R61): every setter. -/
def decodeW (w : Word) : Decoded :=
  match setterOf (wordField w 48 8).toNat (wordField w 0 32).toNat with
  | some i => needZero (wordField w 32 16) i
  | none => .illegal .reservedReg

/-- The decoder: OPC selects the command (R63); every value not in the table is reserved. -/
def decode (w : Word) : Decoded :=
  match (opcField w).toNat with
  | 0x01 => decodeZ w .init
  | 0x02 => decodeZ w .enable
  | 0x03 => decodeZ w .disable
  | 0x04 => decodeZ w .swap
  | 0x05 => decodeS w (.clear .edit) (.clear .display)
  | 0x06 => decodeS w (.copy .d2e) (.copy .e2d)
  | 0x08 => decodeP w
  | 0x09 => decodeH w
  | 0x0A => decodeG w
  | 0x10 => decodeW w
  | _ => .illegal .reservedOpc

/-- The bits of an unsigned operand in a field of `n` bits (R62). -/
def zfield (n v : Nat) : BitVec n := BitVec.ofNat n v

/-- The bits of a signed coordinate (R62). -/
def sfield (v : Int) : BitVec 16 := BitVec.ofInt 16 v

/-- A word of format Z (R61). -/
def encodeZ (opc : BitVec 8) : Word := opc ++ 0#56

/-- A word of format S (R61). -/
def encodeS (opc : BitVec 8) (s : BitVec 1) : Word := opc ++ 0#55 ++ s

/-- A word of format P (R61). -/
def encodeP (opc : BitVec 8) (x y : BitVec 16) (r g b : BitVec 8) : Word := opc ++ x ++ y ++ r ++ g ++ b

/-- A word of format H (R61). -/
def encodeH (opc : BitVec 8) (x y c : BitVec 16) : Word := opc ++ x ++ y ++ c ++ 0#8

/-- A word of format G (R61). -/
def encodeG (opc : BitVec 8) (x y : BitVec 16) : Word := opc ++ x ++ y ++ 0#24

/-- A word of format W (R61): OPC is 0x10. -/
def encodeW (reg : BitVec 8) (v : BitVec 32) : Word := 0x10#8 ++ reg ++ 0#16 ++ v

/-- The encoder: the word of a well-formed command (R61, R63, R64). -/
def encode : Instr → Word
  | .init => encodeZ 0x01#8
  | .enable => encodeZ 0x02#8
  | .disable => encodeZ 0x03#8
  | .swap => encodeZ 0x04#8
  | .clear .edit => encodeS 0x05#8 0#1
  | .clear .display => encodeS 0x05#8 1#1
  | .copy .d2e => encodeS 0x06#8 0#1
  | .copy .e2d => encodeS 0x06#8 1#1
  | .setpixel x y r g b => encodeP 0x08#8 (sfield x) (sfield y) (zfield 8 r) (zfield 8 g) (zfield 8 b)
  | .setpixel565 x y c => encodeH 0x09#8 (sfield x) (sfield y) (zfield 16 c)
  | .getpixel x y => encodeG 0x0A#8 (sfield x) (sfield y)
  | .setwidth v => encodeW 0x01#8 (zfield 32 v)
  | .setheight v => encodeW 0x02#8 (zfield 32 v)
  | .setmuxbits v => encodeW 0x03#8 (zfield 32 v)
  | .setcolordepth v => encodeW 0x04#8 (zfield 32 v)
  | .setdbuf v => encodeW 0x05#8 (zfield 32 v)
  | .setpanels v => encodeW 0x06#8 (zfield 32 v)
  | .setrotate v => encodeW 0x07#8 (zfield 32 v)
  | .setflip v => encodeW 0x08#8 (zfield 32 v)
  | .setcolororder v => encodeW 0x09#8 (zfield 32 v)
  | .setscanpattern v => encodeW 0x0A#8 (zfield 32 v)
  | .setblockpattern v => encodeW 0x0B#8 (zfield 32 v)
  | .setcoloroffset v => encodeW 0x0C#8 (zfield 32 v)
  | .setbrightness v => encodeW 0x0D#8 (zfield 32 v)
  | .setfps v => encodeW 0x0E#8 (zfield 32 v)
  | .setbushz v => encodeW 0x0F#8 (zfield 32 v)

/-- What the decoder reads from the word whose low `nbits` bits are those of `w`, every higher bit 0. A command is one
64-bit word delivered whole (R60), so there is nothing to lay out. -/
def decodeTableWord (nbits w : Nat) : Option Instr :=
  match decode (BitVec.ofNat 64 (w % 2 ^ nbits)) with
  | .ok i => some i
  | .illegal _ => none

/-- The rows of spec/opcode_table.json in its order: mask and match of each. -/
def opcodeRows : List (Word × Word) :=
  [(0xFFFFFFFFFFFFFFFF#64, 0x0100000000000000#64), (0xFFFFFFFFFFFFFFFF#64, 0x0200000000000000#64), (0xFFFFFFFFFFFFFFFF#64, 0x0300000000000000#64)] ++
  [(0xFFFFFFFFFFFFFFFF#64, 0x0400000000000000#64), (0xFFFFFFFFFFFFFFFE#64, 0x0500000000000000#64), (0xFFFFFFFFFFFFFFFE#64, 0x0600000000000000#64)] ++
  [(0xFF00000000000000#64, 0x0800000000000000#64), (0xFF000000000000FF#64, 0x0900000000000000#64), (0xFF00000000FFFFFF#64, 0x0A00000000000000#64)] ++
  [(0xFFFFFFFF00000000#64, 0x1001000000000000#64), (0xFFFFFFFF00000000#64, 0x1002000000000000#64), (0xFFFFFFFF00000000#64, 0x1003000000000000#64)] ++
  [(0xFFFFFFFF00000000#64, 0x1004000000000000#64), (0xFFFFFFFF00000000#64, 0x1005000000000000#64), (0xFFFFFFFF00000000#64, 0x1006000000000000#64)] ++
  [(0xFFFFFFFF00000000#64, 0x1007000000000000#64), (0xFFFFFFFF00000000#64, 0x1008000000000000#64), (0xFFFFFFFF00000000#64, 0x1009000000000000#64)] ++
  [(0xFFFFFFFF00000000#64, 0x100A000000000000#64), (0xFFFFFFFF00000000#64, 0x100B000000000000#64), (0xFFFFFFFF00000000#64, 0x100C000000000000#64)] ++
  [(0xFFFFFFFF00000000#64, 0x100D000000000000#64), (0xFFFFFFFF00000000#64, 0x100E000000000000#64), (0xFFFFFFFF00000000#64, 0x100F000000000000#64)]

end Sys2Proof
end

