-- ==== Sys2Proof/Config.lean ====
section
/-! DEFINITION. Enumerations of configuration registers, the implementation parameters of 00_scope.md R6, and the
values the spec leaves open. A value the spec leaves open is an `opaque` constant without a body: no proof can see
what it is, so a claim holds whatever it is. -/

namespace Sys2Proof

/-- SCANPATTERN (10_state.md R15), in the order of its numbers 0 to 8. -/
inductive ScanPattern where
  | line | zigzag | zzagg | zaggiz | wzagzig | vzag | zagzig | wzagzig2 | zziagg
  deriving DecidableEq, Repr

/-- BLOCKPATTERN (10_state.md R15): 0 ABCD, 1 DBCA. -/
inductive BlockPattern where
  | abcd | dbca
  deriving DecidableEq, Repr

/-- COLORORDER (41_translator.md R116), in the order of its numbers 0 to 5; a name lists the inputs that feed the
red, green and blue wires. -/
inductive ColorOrder where
  | rgb | rbg | grb | gbr | brg | bgr
  deriving DecidableEq, Repr

/-- DBCA_DIAG (00_scope.md R6, 90_conflicts.md C5): which diagonal of a 2x2 tile of blocks is exchanged. -/
inductive DbcaDiag where
  | main | anti
  deriving DecidableEq, Repr

/-- The three scan patterns with a block remap (41_translator.md R121). -/
inductive BlockScan where
  | wzagzig | vzag | wzagzig2
  deriving DecidableEq, Repr

/-- Whose step is taken: one of the three agents of 20_memory.md R46, or the reset event of 10_state.md R27. -/
inductive Turn where
  | host | sched | txeng | reset
  deriving DecidableEq, Repr, Inhabited

/-- The `cmd` field of a MUXSEQ entry (10_state.md R19). -/
inductive MuxCmd where
  | set | clr
  deriving DecidableEq, Repr, Inhabited

/-- One MUXSEQ entry (10_state.md R19): the single changed address line, its direction, and the byte offset of the
row's scan group inside a bit-plane. -/
structure MuxEntry where
  cmd : MuxCmd
  mask : BitVec 7
  offset : BitVec 32
  deriving DecidableEq, Repr, Inhabited

namespace Config

/-- ADDR_MASK[k] = 1 << k (00_scope.md R6). -/
def addrMask (k : Nat) : BitVec 7 := 1#7 <<< k

/-- LAT_MASK = 1 << 5 (00_scope.md R6). -/
def latMask : BitVec 7 := 1#7 <<< 5

/-- OE_MASK = 1 << 6 (00_scope.md R6). -/
def oeMask : BitVec 7 := 1#7 <<< 6

/-- TIMER_BITS = 32 (00_scope.md R6). -/
def timerBits : Nat := 32

/-- TX_MSB_FIRST = true (00_scope.md R6): bit 7 of a byte leaves first on the serial wire. -/
def txMsbFirst : Bool := true

/-- The value this spec fixes for DBCA_DIAG (00_scope.md R6, 90_conflicts.md C5). -/
def dbcaDiag : DbcaDiag := .main

/-- OPEN: TICK_HZ - 1 (00_scope.md R6; log 4). -/
opaque tickHzPred : Nat

/-- TICK_HZ, an integer above 0 (00_scope.md R6). -/
def tickHz : Nat := tickHzPred + 1

/-- OPEN: FB_CAPACITY (00_scope.md R6, 40_config.md R83; log 4). -/
opaque fbCapacity : Nat

/-- FREE VALUE: what byte `addr` of the frame buffer that INIT number `gen` created holds until a command writes it
(10_state.md R27, 93_implementation_defined.md U5; log 5). -/
opaque freeByte : (gen addr : Nat) → Byte

/-- FREE VALUE: a MUXSEQ entry that INIT has not written (10_state.md R27, U17; log 7). -/
opaque freeMuxEntry : (i : Nat) → MuxEntry

/-- FREE VALUE: a ROWOFF entry that INIT has not written (10_state.md R27, U17; log 7). -/
opaque freeRowOff : (y : Nat) → BitVec 32

/-- FREE VALUE: the turn number `n`, where nothing outside has decided it (20_memory.md R47, 60_exceptions.md R195;
log 1). -/
opaque freeTurn : (n : Nat) → Turn

/-- OPEN: the block height of BLOCKREMAP before it is made to divide HEIGHT (41_translator.md R122; log 10). -/
opaque blockHeightRaw : (p : BlockScan) → (width height rowpattern panels : Nat) → Nat

/-- OPEN: the block permutation of BLOCKREMAP inside one panel of the chain, on `cols` block columns and `rows`
block rows (41_translator.md R122; log 10). -/
opaque blockPerm : (p : BlockScan) → (width height rowpattern panels panel cols rows : Nat) →
    Equiv.Perm (Fin cols × Fin rows)

end Config

end Sys2Proof
end

