-- ==== Sys2Proof/Machine/State.lean ====
section
/-! DEFINITION. The machine's state: everything the spec gives the block (10_state.md R10 to R27), the command in
progress (20_memory.md R46, R48), the inputs not yet consumed (10_state.md R26) and the parameters
(00_scope.md R6), as plain data; and the state after reset. -/

namespace Sys2Proof.Machine

/-- ROW, PLANE and CURSOR (10_state.md R11), which exist only while ARMED. -/
structure RefreshPos where
  row : BitVec 5
  plane : BitVec 3
  cursor : BitVec 32
  deriving DecidableEq, Repr

/-- STATE (10_state.md R12). The refresh position is inside ARMED: it is created when the scheduler arms and
discarded when it disarms (R11, R28). -/
inductive Life where
  | uninit
  | idle
  | armed (pos : RefreshPos)
  deriving DecidableEq, Repr

/-- ERRCODE (60_exceptions.md R191); 9 to 15 are never produced (U16). -/
inductive ErrCode where
  | none | illegal | badvalue | locked | notinit | badgeom | nomem | badstate | precond
  deriving DecidableEq, Repr

/-- The configuration registers, each written by exactly one setter (10_state.md R14, R15, R16). -/
structure ConfigRegs where
  -- geometry group (R14)
  width : BitVec 16
  height : BitVec 16
  muxbits : BitVec 3
  colordepth : BitVec 4
  dbuf : Bool
  -- translator group (R15)
  panels : BitVec 8
  rotate : Bool
  flip : Bool
  colororder : ColorOrder
  scanpattern : ScanPattern
  blockpattern : BlockPattern
  coloroffset : BitVec 24
  brightness : BitVec 8
  -- timing group (R16)
  fps : BitVec 16
  bushz : BitVec 32
  deriving DecidableEq, Repr

/-- The derived registers (10_state.md R17). -/
structure DerivedRegs where
  rowpattern : BitVec 6
  w8 : BitVec 13
  nrows : BitVec 13
  pcb : BitVec 32
  sbs : BitVec 32
  bufsize : BitVec 32
  fbsize : BitVec 32
  nbuf : BitVec 2
  baseticks : BitVec 32
  deriving DecidableEq, Repr

/-- The frame-buffer memory FB (10_state.md R21, 20_memory.md R40): the bytes at addresses below `size` exist. `cells`
lists the bytes a command has written, addresses strictly rising; a byte that exists and is not listed holds the free
value `Config.freeByte gen` of its address (R27, U5; log 5). `gen` counts the INITs that created a memory. -/
structure Memory where
  size : Nat
  gen : Nat
  cells : List Host.Cell
  deriving DecidableEq, Repr

/-- The serial engine (10_state.md R23): TXBUSY, TXADDR, TXLEN, TXPOS. -/
structure TxEngine where
  busy : Bool
  addr : BitVec 32
  len : BitVec 32
  pos : BitVec 32
  deriving DecidableEq, Repr

/-- An event of the output trace (00_scope.md R8, R9). -/
inductive TraceEvent where
  | gpoSet (mask : BitVec 7)
  | gpoClr (mask : BitVec 7)
  | timerArm (count : BitVec 32)
  | timerDetach
  | txStart (addr len : BitVec 32)
  | resp (v : BitVec 32)
  | txByte (v : Byte)
  | txDone
  deriving DecidableEq, Repr

/-- The command in progress (20_memory.md R46, R48): what its first step computed (42_framebuffer.md R148) and `k`, the
number of byte steps already taken. -/
inductive HostOp where
  /-- no command in progress: the port accepts the next word -/
  | ready
  /-- SETPIXEL or SETPIXEL565 (41_translator.md R133): buffer base, red offset, bit index, the three wire values -/
  | scatter (base : Nat) (redOff : Int) (bit qR qG qB k : Nat)
  /-- CLEAR (42_framebuffer.md R144) -/
  | clear (base k : Nat)
  /-- COPY (42_framebuffer.md R146) -/
  | copy (src dst k : Nat)
  deriving DecidableEq, Repr

/-- The implementation parameters a model takes as arguments (00_scope.md R6): constant in every run (log 4). -/
structure Params where
  tickHz : Nat
  fbCapacity : Nat
  dbcaDiag : DbcaDiag
  deriving DecidableEq, Repr

/-- The state of the block. -/
structure State where
  /-- implementation parameters (R6) -/
  params : Params
  /-- STATE, with ROW, PLANE and CURSOR (R11, R12) -/
  life : Life
  /-- REFUSED (R13) -/
  refused : Bool
  /-- ERRCODE (R13) -/
  errcode : ErrCode
  /-- configuration registers (R14 to R16) -/
  cfg : ConfigRegs
  /-- derived registers (R17) -/
  der : DerivedRegs
  /-- MUXSEQ, the entries INIT has written (R19) -/
  muxseq : List MuxEntry
  /-- ROWOFF, the entries INIT has written (R20) -/
  rowoff : List (BitVec 32)
  /-- SEL (R11, R18) -/
  sel : Bool
  /-- FB (R21) -/
  fb : Memory
  /-- GPO (R22) -/
  gpo : BitVec 7
  /-- the serial engine (R23) -/
  tx : TxEngine
  /-- TARMED (R24) -/
  tarmed : Bool
  /-- TCOUNT (R24) -/
  tcount : BitVec 32
  /-- the output trace, oldest event first (R9) -/
  trace : List TraceEvent
  /-- the command in progress (R46, R48) -/
  hostOp : HostOp
  /-- input: the command words presented and not yet taken (R26, R60; log 3) -/
  port : List Word
  /-- input: the turns already decided from outside (R26; log 1) -/
  schedule : List Turn
  /-- the model's own: how many turns have been taken, read by the free choice of a turn (log 1) -/
  turn : Nat
  deriving DecidableEq, Repr

/-- Why the machine stops. -/
inductive Fault where
  /-- A TICK was taken while TXBUSY = 1 (43_scheduler.md R167, 60_exceptions.md R197). Raised by the TICK step. Safe:
  the spec says nothing of what the hardware does from there on, and the model claims nothing. -/
  | timingViolation
  /-- An access to an FB address at which no byte exists. Raised by a byte step of HOST or TXENG. Safe: no rule produces
  such an address (20_memory.md R56), and no run from reset reaches it. -/
  | noSuchByte
  deriving DecidableEq, Repr

/-- Why an instruction has no meaning. -/
inductive Refusal where
  /-- The instruction is not modelled yet. Raised by no arm of this model. Safe. -/
  | notModelled (mnemonic : String)
  deriving DecidableEq, Repr

/-- Configuration registers after reset (10_state.md R27). -/
def ConfigRegs.reset : ConfigRegs where
  width := 0
  height := 0
  muxbits := 0
  colordepth := 8
  dbuf := false
  panels := 1
  rotate := false
  flip := false
  colororder := .rgb
  scanpattern := .line
  blockpattern := .abcd
  coloroffset := 0
  brightness := 255
  fps := 0
  bushz := 0

/-- Derived registers after reset. The spec leaves them unspecified until INIT (R27, U17). DESIGN CHOICE, unsafe:
zero (log 6). -/
def DerivedRegs.reset : DerivedRegs where
  rowpattern := 0
  w8 := 0
  nrows := 0
  pcb := 0
  sbs := 0
  bufsize := 0
  fbsize := 0
  nbuf := 0
  baseticks := 0

/-- The machine right after reset (10_state.md R27, 70_reset_and_hazards.md R220). -/
def State.reset : State where
  params := { tickHz := Config.tickHz, fbCapacity := Config.fbCapacity, dbcaDiag := Config.dbcaDiag }
  life := .uninit
  refused := false
  errcode := .none
  cfg := ConfigRegs.reset
  der := DerivedRegs.reset
  muxseq := []
  rowoff := []
  sel := false
  fb := { size := 0, gen := 0, cells := [] }
  gpo := 0
  tx := { busy := false, addr := 0, len := 0, pos := 0 }
  tarmed := false
  tcount := 0
  trace := []
  hostOp := .ready
  port := []
  schedule := []
  turn := 0

end Sys2Proof.Machine
end

