-- ==== Sys2Proof/Machine/Flags.lean ====
section
/-! DEFINITION. The status fields that stand in for condition codes (10_state.md R13), the refusal, which is what the
block has in place of an exception (60_exceptions.md R190, R191), and the status wires (10_state.md R25). There is no
saved state, no handler and no return (R190, R196). -/

namespace Sys2Proof.Machine

/-- The number of a refusal code (60_exceptions.md R191). -/
def ErrCode.code : ErrCode → BitVec 4
  | .none => 0
  | .illegal => 1
  | .badvalue => 2
  | .locked => 3
  | .notinit => 4
  | .badgeom => 5
  | .nomem => 6
  | .badstate => 7
  | .precond => 8

/-- The number of a STATE (10_state.md R12). -/
def Life.code : Life → BitVec 2
  | .uninit => 0
  | .idle => 1
  | .armed _ => 2

/-- STATE = UNINIT. -/
def Life.isUninit : Life → Bool
  | .uninit => true
  | .idle => false
  | .armed _ => false

/-- STATE = ARMED. -/
def Life.isArmed : Life → Bool
  | .uninit => false
  | .idle => false
  | .armed _ => true

/-- `refuse(code)` (00_scope.md R8, 60_exceptions.md R190): exactly `REFUSED <- 1; ERRCODE <- code`. -/
def State.refuse (code : ErrCode) (s : State) : State :=
  { s with refused := true, errcode := code }

/-- The status wires (10_state.md R25), views of the registers of the same names. -/
structure StatusWires where
  state : BitVec 2
  refused : BitVec 1
  errcode : BitVec 4
  txbusy : BitVec 1
  sel : BitVec 1
  deriving DecidableEq, Repr

/-- What the status wires show (10_state.md R25). -/
def State.wires (s : State) : StatusWires where
  state := s.life.code
  refused := BitVec.ofBool s.refused
  errcode := s.errcode.code
  txbusy := BitVec.ofBool s.tx.busy
  sel := BitVec.ofBool s.sel

end Sys2Proof.Machine
end

