-- ==== Sys2Proof/Machine/Ops.lean ====
section
/-! DEFINITION. The named operations every meaning is built from: the primitives of 00_scope.md R8 over FB, GPIO, timer,
serial engine and response port, the buffer roles of 10_state.md R18, and the table registers of R19 and R20. -/

namespace Sys2Proof.Machine

/-! ## Frame-buffer memory -/

/-- The byte listed at `a`, if a command has written one. -/
def cellsGet (a : Nat) : List Host.Cell → Option Byte
  | [] => none
  | c :: cs => if c.1 = a then some c.2 else cellsGet a cs

/-- `cells` with byte `v` at `a`, addresses kept strictly rising. -/
def cellsSet (a : Nat) (v : Byte) : List Host.Cell → List Host.Cell
  | [] => [(a, v)]
  | c :: cs => if a < c.1 then (a, v) :: c :: cs else if a = c.1 then (a, v) :: cs else c :: cellsSet a v cs

/-- Every address of `cells` is at least `lo`, below `size`, and they rise strictly. -/
def cellsWf (size : Nat) : Nat → List Host.Cell → Bool
  | _, [] => true
  | lo, c :: cs => decide (lo ≤ c.1) && decide (c.1 < size) && cellsWf size (c.1 + 1) cs

/-- The canonical form of FB: listed addresses exist and rise strictly. An unlisted byte has no listed value (it is the
free byte of its address), so no entry can repeat what an unlisted address holds (log 5). -/
def Memory.wf (m : Memory) : Bool := cellsWf m.size 0 m.cells

/-- What the existing byte at `a` holds: the value last written, or the free byte INIT left there (10_state.md R27). -/
def Memory.byteAt (m : Memory) (a : Nat) : Byte :=
  match cellsGet a m.cells with
  | some v => v
  | none => Config.freeByte m.gen a

/-- `MemRead(a, 1)` (00_scope.md R8): none where no byte exists (20_memory.md R40). -/
def Memory.read (m : Memory) (a : Int) : Option Byte :=
  if 0 ≤ a ∧ a < (m.size : Int) then some (m.byteAt a.toNat) else none

/-- `MemWrite(a, 1, v)` (00_scope.md R8): none where no byte exists. -/
def Memory.write (m : Memory) (a : Int) (v : Byte) : Option Memory :=
  if 0 ≤ a ∧ a < (m.size : Int) then some { m with cells := cellsSet a.toNat v m.cells } else none

/-- The memory INIT creates (40_config.md R81): `n` bytes, each the free byte of the new generation. -/
def Memory.create (m : Memory) (n : Nat) : Memory := { size := n, gen := m.gen + 1, cells := [] }

/-- The memory after reset (10_state.md R27): no byte exists. -/
def Memory.discard (m : Memory) : Memory := { size := 0, gen := m.gen, cells := [] }

/-- One indivisible byte step that reads the byte at `src`, writes `f` of it at `dst`, and leaves `next` as the command
in progress (20_memory.md R45). -/
def State.byteStep (src dst : Int) (f : Byte → Byte) (next : HostOp) (s : State) :
    Host.Outcome State Fault Refusal :=
  match s.fb.read src with
  | none => .fault .noSuchByte
  | some old =>
    match s.fb.write dst (f old) with
    | none => .fault .noSuchByte
    | some fb => .next { s with fb := fb, hostOp := next }

/-! ## Output trace, GPIO, timer, serial engine, response port -/

/-- Appends an event to the output trace (00_scope.md R9). -/
def State.emit (e : TraceEvent) (s : State) : State := { s with trace := s.trace ++ [e] }

/-- `GPO_SET(mask)` (00_scope.md R8). -/
def State.gpoSet (mask : BitVec 7) (s : State) : State :=
  { s with gpo := s.gpo ||| mask, trace := s.trace ++ [.gpoSet mask] }

/-- `GPO_CLR(mask)` (00_scope.md R8). -/
def State.gpoClr (mask : BitVec 7) (s : State) : State :=
  { s with gpo := s.gpo &&& ~~~mask, trace := s.trace ++ [.gpoClr mask] }

/-- `TIMER_ARM(n)` (00_scope.md R8). -/
def State.timerArm (n : BitVec 32) (s : State) : State :=
  { s with tarmed := true, tcount := n, trace := s.trace ++ [.timerArm n] }

/-- `TIMER_DETACH()` (00_scope.md R8). -/
def State.timerDetach (s : State) : State :=
  { s with tarmed := false, trace := s.trace ++ [.timerDetach] }

/-- `TX_START(addr, n)` (00_scope.md R8). -/
def State.txStart (addr n : BitVec 32) (s : State) : State :=
  { s with tx := { busy := true, addr := addr, len := n, pos := 0 }, trace := s.trace ++ [.txStart addr n] }

/-- `RESP(v)` (00_scope.md R8). -/
def State.resp (v : BitVec 32) (s : State) : State := s.emit (.resp v)

/-- The sum of ADDR_MASK[k] over the bits k of `n` that are set, k below 5 (40_config.md R86). -/
def addrLines (n : Nat) : BitVec 7 :=
  (List.range 5).foldl (fun m k => if n.testBit k then m + Config.addrMask k else m) 0#7

/-! ## Buffer roles -/

/-- Where storage 0 or storage 1 begins (10_state.md R18). -/
def State.storageBase (storage1 : Bool) (s : State) : Nat := if storage1 then s.der.fbsize.toNat else 0

/-- DISPBASE (10_state.md R18). -/
def State.dispBase (s : State) : Nat := if s.cfg.dbuf then s.storageBase s.sel else 0

/-- EDITBASE (10_state.md R18). -/
def State.editBase (s : State) : Nat := if s.cfg.dbuf then s.storageBase (!s.sel) else 0

/-! ## Table registers -/

/-- MUXSEQ[i] (10_state.md R19). -/
def State.muxEntry (i : Nat) (s : State) : MuxEntry := (s.muxseq[i]?).getD (Config.freeMuxEntry i)

/-- ROWOFF[y] (10_state.md R20). -/
def State.rowOff (y : Nat) (s : State) : BitVec 32 := (s.rowoff[y]?).getD (Config.freeRowOff y)

end Sys2Proof.Machine
end

