-- ==== Sys2Proof/Machine/Operands.lean ====
section
/-! DEFINITION. The operand forms: the numbers of enumerated registers (10_state.md R15), the packed 5-6-5 colour
(42_framebuffer.md R142), and the channel values of a pixel (41_translator.md R111, R116, R117). -/

namespace Sys2Proof.Machine

/-- The scan pattern of a number (10_state.md R15); 9 and above are not legal. -/
def scanPatternOf : Nat → Option ScanPattern
  | 0 => some .line
  | 1 => some .zigzag
  | 2 => some .zzagg
  | 3 => some .zaggiz
  | 4 => some .wzagzig
  | 5 => some .vzag
  | 6 => some .zagzig
  | 7 => some .wzagzig2
  | 8 => some .zziagg
  | _ => none

/-- The block pattern of a number (10_state.md R15). -/
def blockPatternOf : Nat → Option BlockPattern
  | 0 => some .abcd
  | 1 => some .dbca
  | _ => none

/-- The colour order of a number (41_translator.md R116). -/
def colorOrderOf : Nat → Option ColorOrder
  | 0 => some .rgb
  | 1 => some .rbg
  | 2 => some .grb
  | 3 => some .gbr
  | 4 => some .brg
  | 5 => some .bgr
  | _ => none

/-- The value of a 1-bit register (10_state.md R14, R15). -/
def bitOf : Nat → Option Bool
  | 0 => some false
  | 1 => some true
  | _ => none

/-- Three channel values, red, green and blue inputs or the values on the three wires. -/
structure Channels where
  red : Nat
  green : Nat
  blue : Nat
  deriving DecidableEq, Repr

/-- Channel c: 0 red, 1 green, 2 blue (20_memory.md R43). -/
def Channels.get (ch : Channels) : Nat → Nat
  | 0 => ch.red
  | 1 => ch.green
  | _ => ch.blue

/-- EXPAND565 (42_framebuffer.md R142). PRESUMED by the spec itself from general knowledge, unsafe (log 12). -/
def expand565 (c : Nat) : Channels where
  red := (c / 2 ^ 11 % 2 ^ 5 * 527 + 23) / 2 ^ 6
  green := (c / 2 ^ 5 % 2 ^ 6 * 259 + 33) / 2 ^ 6
  blue := (c % 2 ^ 5 * 527 + 23) / 2 ^ 6

/-- The three floors of COLOROFFSET (10_state.md R15). -/
def offsetFloors (coloroffset : BitVec 24) : Channels where
  red := (coloroffset.extractLsb' 16 8).toNat
  green := (coloroffset.extractLsb' 8 8).toNat
  blue := (coloroffset.extractLsb' 0 8).toNat

/-- Step 1, colour offset (41_translator.md R111): each floor subtracted, floored at 0. -/
def colorOffset (floors ch : Channels) : Channels where
  red := (max ((ch.red : Int) - floors.red) 0).toNat
  green := (max ((ch.green : Int) - floors.green) 0).toNat
  blue := (max ((ch.blue : Int) - floors.blue) 0).toNat

/-- Step 6, colour order (41_translator.md R116): which input feeds each wire. -/
def colorWires (order : ColorOrder) (ch : Channels) : Channels :=
  match order with
  | .rgb => ⟨ch.red, ch.green, ch.blue⟩
  | .rbg => ⟨ch.red, ch.blue, ch.green⟩
  | .grb => ⟨ch.green, ch.red, ch.blue⟩
  | .gbr => ⟨ch.green, ch.blue, ch.red⟩
  | .brg => ⟨ch.blue, ch.red, ch.green⟩
  | .bgr => ⟨ch.blue, ch.green, ch.red⟩

/-- Quantisation to COLORDEPTH bits (41_translator.md R117). -/
def quantise (colordepth : Nat) (ch : Channels) : Channels where
  red := ch.red >>> (8 - colordepth)
  green := ch.green >>> (8 - colordepth)
  blue := ch.blue >>> (8 - colordepth)

/-- The values a pixel write scatters (42_framebuffer.md R140): offset, order, quantisation. -/
def State.wireValues (s : State) (ch : Channels) : Channels :=
  quantise s.cfg.colordepth.toNat
    (colorWires s.cfg.colororder (colorOffset (offsetFloors s.cfg.coloroffset) ch))

end Sys2Proof.Machine
end

