-- ==== Sys2Proof/Machine/Translator.lean ====
section
/-! DEFINITION. The address translator (41_translator.md R110 to R134). Coordinates are integers with floor division
(00_scope.md R7, 44_laws.md R182); every divisor is positive under the preconditions (R183). -/

namespace Sys2Proof.Machine

/-- What `translate` returns (R110). -/
inductive Translated where
  /-- the pixel is outside the panel -/
  | drop
  /-- the configured pattern's precondition does not hold -/
  | precond
  /-- byte offset of the red-wire byte inside a bit-plane, and bit index -/
  | place (redOff : Int) (bit : Nat)
  deriving DecidableEq, Repr

/-- The patterns whose bytes two rows of a scan group share (R124). -/
def pairedPattern : ScanPattern → Bool
  | .zigzag => true
  | .zzagg => true
  | .zaggiz => true
  | .zagzig => true
  | .zziagg => true
  | .line => false
  | .wzagzig => false
  | .vzag => false
  | .wzagzig2 => false

/-- The patterns with a block remap (R121). -/
def blockScanOf : ScanPattern → Option BlockScan
  | .wzagzig => some .wzagzig
  | .vzag => some .vzag
  | .wzagzig2 => some .wzagzig2
  | .line => none
  | .zigzag => none
  | .zzagg => none
  | .zaggiz => none
  | .zagzig => none
  | .zziagg => none

/-- The precondition of BLOCKPATTERN (R134). -/
def State.blockPatternOk (s : State) : Bool :=
  match s.cfg.blockpattern with
  | .abcd => true
  | .dbca => decide (s.cfg.width.toNat % (2 * s.cfg.panels.toNat) = 0 ∧ s.cfg.height.toNat % 4 = 0)

/-- The precondition of SCANPATTERN (R134). -/
def State.scanPatternOk (s : State) : Bool :=
  if pairedPattern s.cfg.scanpattern then decide (s.der.nrows.toNat % 2 = 0)
  else match blockScanOf s.cfg.scanpattern with
    | none => true
    | some _ => decide (s.der.nrows.toNat = 4 ∧ s.cfg.width.toNat % s.cfg.panels.toNat = 0 ∧
        s.cfg.width.toNat / s.cfg.panels.toNat % 16 = 0 ∧ s.cfg.width.toNat / s.cfg.panels.toNat ≤ 32)

/-- The preconditions of a pixel write (R134). -/
def State.precondOk (s : State) : Bool := s.blockPatternOk && s.scanPatternOk

/-- Step 2 of DBCA (R112), on blocks of `dx` columns by `dy` rows. -/
def swapBlocks (diag : DbcaDiag) (dx dy : Int) (p : Int × Int) : Int × Int :=
  let xb := p.1 / dx
  let yb := p.2 / dy
  match diag with
  | .main =>
    if yb % 2 = 0 ∧ xb % 2 = 0 then (p.1 + dx, p.2 + dy)
    else if yb % 2 = 1 ∧ xb % 2 = 1 then (p.1 - dx, p.2 - dy)
    else p
  | .anti =>
    if yb % 2 = 0 ∧ xb % 2 = 1 then (p.1 - dx, p.2 + dy)
    else if yb % 2 = 1 ∧ xb % 2 = 0 then (p.1 + dx, p.2 - dy)
    else p

/-- Step 2, block-pattern swap (R112). -/
def State.stepBlock (s : State) (p : Int × Int) : Int × Int :=
  match s.cfg.blockpattern with
  | .abcd => p
  | .dbca =>
    swapBlocks s.params.dbcaDiag (s.cfg.width.toNat / (2 * s.cfg.panels.toNat) : Nat)
      (s.cfg.height.toNat / 4 : Nat) p

/-- Step 3, rotation (R113). -/
def State.stepRotate (s : State) (p : Int × Int) : Int × Int :=
  if s.cfg.rotate then (p.2, (s.cfg.height.toNat : Int) - 1 - p.1) else p

/-- Step 4, horizontal flip (R114): applied when FLIP is 0. -/
def State.stepFlip (s : State) (p : Int × Int) : Int × Int :=
  if s.cfg.flip then p else ((s.cfg.width.toNat : Int) - 1 - p.1, p.2)

/-- Steps 2 to 4: a logical coordinate to a panel coordinate (R118). -/
def State.panelCoord (s : State) (p : Int × Int) : Int × Int := s.stepFlip (s.stepRotate (s.stepBlock p))

/-- Step 5, bounds check (R115). -/
def State.inPanel (s : State) (p : Int × Int) : Bool :=
  decide (0 ≤ p.1 ∧ p.1 < (s.cfg.width.toNat : Int) ∧ 0 ≤ p.2 ∧ p.2 < (s.cfg.height.toNat : Int))

/-- The block height hb of BLOCKREMAP: the open value where it divides HEIGHT, else HEIGHT (R122; log 10). -/
def blockHeight (p : BlockScan) (width height rowpattern panels : Nat) : Nat :=
  let h := Config.blockHeightRaw p width height rowpattern panels
  if 0 < h ∧ height % h = 0 then h else height

/-- BLOCKREMAP (R121, R122): inside one panel of the chain, whole blocks of 16 columns by hb rows move by the open
permutation. A coordinate in no block stays (log 10). -/
def blockRemap (p : BlockScan) (width height rowpattern panels x y : Nat) : Nat × Nat :=
  let pw := width / panels
  let hb := blockHeight p width height rowpattern panels
  let panel := x / pw
  let col := x % pw / 16
  let row := y / hb
  if h : col < pw / 16 ∧ row < height / hb then
    let b := Config.blockPerm p width height rowpattern panels panel (pw / 16) (height / hb) (⟨col, h.1⟩, ⟨row, h.2⟩)
    (panel * pw + b.1.val * 16 + x % pw % 16, b.2.val * hb + y % hb)
  else (x, y)

/-- Step 7, scan-pattern block remap (R121), on a coordinate inside the panel. -/
def State.stepRemap (s : State) (x y : Nat) : Nat × Nat :=
  match blockScanOf s.cfg.scanpattern with
  | none => (x, y)
  | some p => blockRemap p s.cfg.width.toNat s.cfg.height.toNat s.der.rowpattern.toNat s.cfg.panels.toNat x y

/-- Step 8 for LINE and the block patterns (R120, R123). -/
def State.lineOffset (s : State) (x y : Nat) : Int :=
  ((s.rowOff y).toNat : Int) - ((y / s.der.rowpattern.toNat : Nat) * (s.der.w8.toNat : Int)
    + ((s.der.w8.toNat : Int) - 1 - (x / 8 : Nat)))

/-- Step 8 for the paired patterns (R124). -/
def State.pairBase (s : State) (x y : Nat) : Int :=
  ((s.rowOff y).toNat : Int) - 2 * ((s.der.w8.toNat : Int) - 1 - (x / 8 : Nat))
    - 2 * (s.der.w8.toNat : Int) * (y / s.der.rowpattern.toNat / 2 : Nat)

/-- y is in the upper half of its multiplex-row period (R125). -/
def State.upperHalf (s : State) (y : Nat) : Bool :=
  decide (y % (2 * s.der.rowpattern.toNat) < s.der.rowpattern.toNat)

/-- Step 9 (R126 to R130): byte and bit of a paired pattern; any other pattern keeps `base` and `bit`. -/
def pairCorrect (pat : ScanPattern) (upper : Bool) (base : Int) (bit : Nat) : Translated :=
  match pat with
  | .zigzag => if upper then .place base bit else .place (base - 1) bit
  | .zagzig => if upper then .place (base - 1) bit else .place base bit
  | .zaggiz => if upper then .place (base - 1) (7 - bit) else .place base bit
  | .zzagg =>
    if upper then (if bit ≤ 3 then .place base bit else .place (base - 1) (bit - 4))
    else (if bit ≤ 3 then .place base (bit + 4) else .place (base - 1) bit)
  | .zziagg =>
    if upper then (if bit ≤ 3 then .place base (bit + 4) else .place (base - 1) bit)
    else (if bit ≤ 3 then .place base bit else .place (base - 1) (bit - 4))
  | .line => .place base bit
  | .wzagzig => .place base bit
  | .vzag => .place base bit
  | .wzagzig2 => .place base bit

/-- Steps 7 to 11 (R119 to R132): byte and bit of a coordinate inside the panel. -/
def State.placePixel (s : State) (x y : Nat) : Translated :=
  let q := s.stepRemap x y
  if pairedPattern s.cfg.scanpattern then
    pairCorrect s.cfg.scanpattern (s.upperHalf q.2) (s.pairBase q.1 q.2) (q.1 % 8)
  else .place (s.lineOffset q.1 q.2) (q.1 % 8)

/-- `translate(x, y)` (R110), its steps in the order of R118, the preconditions first. -/
def State.translate (s : State) (x y : Int) : Translated :=
  if s.precondOk then
    let p := s.panelCoord (x, y)
    if s.inPanel p then s.placePixel p.1.toNat p.2.toNat else .drop
  else .precond

/-- The byte of wire channel `c` in bit-plane `p` of the buffer at `base` (20_memory.md R43, 41_translator.md R131,
R133). -/
def State.laneAddr (s : State) (base : Nat) (redOff : Int) (p c : Nat) : Int :=
  (base : Int) + (p : Int) * (s.der.bufsize.toNat : Int) + redOff - (c : Int) * (s.der.pcb.toNat : Int)

/-- A byte with bit `bit` set or cleared, the other seven as they were (R133). -/
def putBit (bit : Nat) (on : Bool) (old : Byte) : Byte :=
  if on then old ||| (1#8 <<< bit) else old &&& ~~~(1#8 <<< bit)

end Sys2Proof.Machine
end

