-- ==== Sys2Proof/Machine/FrameBuffer.lean ====
section
/-! DEFINITION. The frame-buffer commands (42_framebuffer.md R140 to R148). SETPIXEL, SETPIXEL565, CLEAR and COPY are a
first HOST step, which checks and computes, and byte steps, which other agents' steps may come between
(20_memory.md R45, R46). -/

namespace Sys2Proof.Machine

/-- The first HOST step of a pixel write (R140). -/
def State.startPixel (x y : Int) (ch : Channels) (s : State) : Host.Outcome State Fault Refusal :=
  if s.life.isUninit then .next (s.refuse .notinit)
  else match s.translate x y with
    | .precond => .next (s.refuse .precond)
    | .drop => .next s
    | .place redOff bit =>
      let q := s.wireValues ch
      if 0 < 3 * s.cfg.colordepth.toNat then
        .next { s with hostOp := .scatter s.editBase redOff bit q.red q.green q.blue 0 }
      else .next s

/-- SETPIXEL (R140). -/
def execSetpixel (x y : Int) (r g b : Nat) (s : State) : Host.Outcome State Fault Refusal :=
  s.startPixel x y ⟨r, g, b⟩

/-- SETPIXEL565 (R141). -/
def execSetpixel565 (x y : Int) (c : Nat) (s : State) : Host.Outcome State Fault Refusal :=
  s.startPixel x y (expand565 c)

/-- GETPIXEL (R143): RESP(0) in every STATE, for every coordinate. -/
def execGetpixel (_x _y : Int) (s : State) : Host.Outcome State Fault Refusal :=
  .next (s.resp 0)

/-- The base of the buffer that plays a role (R144). -/
def State.roleBase (sel : BufferRole) (s : State) : Nat :=
  match sel with
  | .edit => s.editBase
  | .display => s.dispBase

/-- CLEAR, its first step (R144). -/
def execClear (sel : BufferRole) (s : State) : Host.Outcome State Fault Refusal :=
  if s.life.isUninit then .next (s.refuse .notinit)
  else if 0 < s.der.fbsize.toNat then .next { s with hostOp := .clear (s.roleBase sel) 0 }
  else .next s

/-- SWAP (R145): one indivisible step; with DBUF = 0 it has no effect. -/
def execSwap (s : State) : Host.Outcome State Fault Refusal :=
  if s.life.isUninit then .next (s.refuse .notinit)
  else if !s.cfg.dbuf then .next s
  else
    let s1 := { s with sel := !s.sel }
    match s.life with
    | .armed pos =>
      .next { s1 with life := .armed { pos with
        cursor := BitVec.ofNat 32 (s1.storageBase s1.sel + (s.muxEntry pos.row.toNat).offset.toNat
          + pos.plane.toNat * s.der.bufsize.toNat) } }
    | .uninit => .next s1
    | .idle => .next s1

/-- Source and destination of COPY (R146). -/
def State.copyBases (dir : CopyDir) (s : State) : Nat × Nat :=
  match dir with
  | .d2e => (s.dispBase, s.editBase)
  | .e2d => (s.editBase, s.dispBase)

/-- COPY, its first step (R146); with DBUF = 0 it has no effect. -/
def execCopy (dir : CopyDir) (s : State) : Host.Outcome State Fault Refusal :=
  if s.life.isUninit then .next (s.refuse .notinit)
  else if !s.cfg.dbuf then .next s
  else if 0 < s.der.fbsize.toNat then
    .next { s with hostOp := .copy (s.copyBases dir).1 (s.copyBases dir).2 0 }
  else .next s

/-- The command in progress after a byte step that was not (or was) the last of `n` (20_memory.md R48). -/
def afterStep (k n : Nat) (op : HostOp) : HostOp := if k + 1 < n then op else .ready

/-- Byte step `k` of the scatter (41_translator.md R133): plane k div 3, channel k mod 3. -/
def State.scatterStep (base : Nat) (redOff : Int) (bit qR qG qB k : Nat) (s : State) :
    Host.Outcome State Fault Refusal :=
  let a := s.laneAddr base redOff (k / 3) (k % 3)
  let q := Channels.get ⟨qR, qG, qB⟩ (k % 3)
  s.byteStep a a (putBit bit (q.testBit (k / 3)))
    (afterStep k (3 * s.cfg.colordepth.toNat) (.scatter base redOff bit qR qG qB (k + 1)))

/-- Byte step `k` of CLEAR (R144). -/
def State.clearStep (base k : Nat) (s : State) : Host.Outcome State Fault Refusal :=
  s.byteStep (base + k : Nat) (base + k : Nat) (fun _ => 0#8)
    (afterStep k s.der.fbsize.toNat (.clear base (k + 1)))

/-- Byte step `k` of COPY (R146). -/
def State.copyStep (src dst k : Nat) (s : State) : Host.Outcome State Fault Refusal :=
  s.byteStep (src + k : Nat) (dst + k : Nat) (fun v => v)
    (afterStep k s.der.fbsize.toNat (.copy src dst (k + 1)))

/-- The next HOST byte step of the command in progress (20_memory.md R46); none is in progress when it is `ready`. -/
def State.hostByteStep (s : State) : Host.Outcome State Fault Refusal :=
  match s.hostOp with
  | .ready => .next s
  | .scatter base redOff bit qR qG qB k => s.scatterStep base redOff bit qR qG qB k
  | .clear base k => s.clearStep base k
  | .copy src dst k => s.copyStep src dst k

/-- `n` HOST byte steps of the command in progress, with no step of another agent between them. -/
def State.hostByteSteps : Nat → State → Host.Outcome State Fault Refusal
  | 0, s => .next s
  | n + 1, s =>
    match s.hostByteStep with
    | .next t => State.hostByteSteps n t
    | .fault r => .fault r
    | .refused r => .refused r

/-- How many byte steps the command in progress still has to take (20_memory.md R48). -/
def State.stepsLeft (s : State) : Nat :=
  match s.hostOp with
  | .ready => 0
  | .scatter _ _ _ _ _ _ k => 3 * s.cfg.colordepth.toNat - k
  | .clear _ k => s.der.fbsize.toNat - k
  | .copy _ _ k => s.der.fbsize.toNat - k

/-- The address the next HOST byte step stores to (44_laws.md R186). -/
def State.storeAddr (s : State) : Option Int :=
  match s.hostOp with
  | .ready => none
  | .scatter base redOff _ _ _ _ k => some (s.laneAddr base redOff (k / 3) (k % 3))
  | .clear base k => some (base + k : Nat)
  | .copy _ dst k => some (dst + k : Nat)

end Sys2Proof.Machine
end

