-- ==== Sys2Proof/Machine/Scheduler.lean ====
section
/-! DEFINITION. ENABLE and DISABLE (43_scheduler.md R161, R162) and TICK, the step of agent SCHED (R163 to R167). -/

namespace Sys2Proof.Machine

/-- The GPIO operand with the used address lines, ADDR_MASK[k] for k below MUXBITS (R161). -/
def usedLines (muxbits : Nat) : BitVec 7 := addrLines (2 ^ muxbits - 1)

/-- ENABLE (R161). -/
def execEnable (s : State) : Host.Outcome State Fault Refusal :=
  if s.life.isUninit then .next (s.refuse .notinit)
  else if s.life.isArmed then .next (s.refuse .badstate)
  else
    let s1 := s.gpoClr (usedLines s.cfg.muxbits.toNat)
    let pos : RefreshPos :=
      { row := 0#5, plane := 0#3, cursor := BitVec.ofNat 32 (s.dispBase + (s.muxEntry 0).offset.toNat) }
    .next ({ s1 with life := .armed pos }.timerArm s.der.baseticks)

/-- DISABLE (R162), in IDLE too. -/
def execDisable (s : State) : Host.Outcome State Fault Refusal :=
  if s.life.isUninit then .next (s.refuse .notinit)
  else .next { (s.gpoClr Config.oeMask).timerDetach with life := .idle }

/-- Step 2 of TICK (R164): the GPIO change of one MUXSEQ entry. -/
def State.applyMux (e : MuxEntry) (s : State) : State :=
  match e.cmd with
  | .set => s.gpoSet e.mask
  | .clr => s.gpoClr e.mask

/-- Step 5 of TICK, advance (R165). -/
def State.advance (pos : RefreshPos) (s : State) : RefreshPos :=
  if pos.plane.toNat + 1 = s.cfg.colordepth.toNat then
    let row := (pos.row.toNat + 1) % s.der.rowpattern.toNat
    { row := BitVec.ofNat 5 row
      plane := 0#3
      cursor := BitVec.ofNat 32 (s.dispBase + (s.muxEntry row).offset.toNat) }
  else
    { pos with
      plane := BitVec.ofNat 3 (pos.plane.toNat + 1)
      cursor := BitVec.ofNat 32 (pos.cursor.toNat + s.der.bufsize.toNat) }

/-- Steps 1 to 4 of TICK (R164): blank, step the address lines on the first bit-plane, pulse latch, unblank. -/
def State.showLine (pos : RefreshPos) (s : State) : State :=
  let s1 := s.gpoClr Config.oeMask
  let s2 := if pos.plane = 0#3 then s1.applyMux (s1.muxEntry pos.row.toNat) else s1
  ((s2.gpoSet Config.latMask).gpoClr Config.latMask).gpoSet Config.oeMask

/-- The seven steps of a TICK taken at `pos` with the engine free (R164, R165, R166). Taking the TICK consumes the
arming (R163); step 7 arms the timer again. -/
def State.tick (pos : RefreshPos) (s : State) : State :=
  let s4 := { s with tarmed := false }.showLine pos
  let pos' := s4.advance pos
  let s6 := { s4 with life := .armed pos' }.txStart pos'.cursor s4.der.sbs
  s6.timerArm (BitVec.ofNat 32 (s6.der.baseticks.toNat * 2 ^ pos'.plane.toNat))

/-- The step of SCHED: a TICK where one can be taken, else nothing (R163); the timing violation where the last transfer
is unfinished (R167, 60_exceptions.md R197; log 8). -/
def State.schedStep (s : State) : Host.Outcome State Fault Refusal :=
  match s.life with
  | .armed pos =>
    if s.tarmed then (if s.tx.busy then .fault .timingViolation else .next (s.tick pos)) else .next s
  | .uninit => .next s
  | .idle => .next s

end Sys2Proof.Machine
end

