-- ==== Sys2Proof/Machine/Init.lean ====
section
/-! DEFINITION. INIT (40_config.md R81) and what it derives: the geometry check (R82), the sizes (R84), the base tick
count (R85) and the tables MUXSEQ (R86) and ROWOFF (R87). -/

namespace Sys2Proof.Machine

/-- The sizes of R84, as integers, before they are put into registers. -/
structure Sizes where
  rowpattern : Nat
  w8 : Nat
  nrows : Nat
  pcb : Nat
  sbs : Nat
  bufsize : Nat
  fbsize : Nat
  nbuf : Nat
  deriving DecidableEq, Repr

/-- `geometry_ok()` (R82). -/
def geometryOk (c : ConfigRegs) : Bool :=
  let rp := 2 ^ c.muxbits.toNat
  decide ((c.muxbits.toNat = 3 ∨ c.muxbits.toNat = 4 ∨ c.muxbits.toNat = 5) ∧
    8 ≤ c.width.toNat ∧ c.width.toNat % 8 = 0 ∧
    rp ≤ c.height.toNat ∧ c.height.toNat % rp = 0 ∧ c.bushz.toNat ≠ 0)

/-- The derived sizes (R84). -/
def deriveSizes (c : ConfigRegs) : Sizes :=
  let rp := 2 ^ c.muxbits.toNat
  let pcb := c.height.toNat / rp * (c.width.toNat / 8)
  let bufsize := c.height.toNat * c.width.toNat * 3 / 8
  { rowpattern := rp
    w8 := c.width.toNat / 8
    nrows := c.height.toNat / rp
    pcb := pcb
    sbs := 3 * pcb
    bufsize := bufsize
    fbsize := c.colordepth.toNat * bufsize
    nbuf := if c.dbuf then 2 else 1 }

/-- `baseticks()` (R85); none is its overflow. -/
def baseticks (tickHz fps rowpattern colordepth sbs bushz : Nat) : Option Nat :=
  let ideal := tickHz / (max fps 1 * rowpattern * (2 ^ colordepth - 1))
  let floor := (sbs * 8 * tickHz + bushz - 1) / bushz
  let t := max (max ideal floor) 1
  if t * 2 ^ (colordepth - 1) ≥ 2 ^ Config.timerBits then none else some t

/-- `gray(i)` (00_scope.md R7). -/
def gray (i : Nat) : Nat := i ^^^ (i >>> 1)

/-- MUXSEQ[i] as INIT computes it (R86). -/
def muxSeqEntry (rowpattern sbs i : Nat) : MuxEntry :=
  let g := gray i
  let d := g ^^^ gray ((i + rowpattern - 1) % rowpattern)
  { cmd := if g &&& d ≠ 0 then .set else .clr
    mask := addrLines d
    offset := BitVec.ofNat 32 (g * sbs) }

/-- The table MUXSEQ (R86). -/
def muxSeqTable (rowpattern sbs : Nat) : List MuxEntry :=
  (List.range rowpattern).map (muxSeqEntry rowpattern sbs)

/-- ROWOFF[y] as INIT computes it (R87). -/
def rowOffEntry (rowpattern sbs y : Nat) : BitVec 32 :=
  BitVec.ofNat 32 (y % rowpattern * sbs + sbs - 1)

/-- The table ROWOFF (R87). -/
def rowOffTable (height rowpattern sbs : Nat) : List (BitVec 32) :=
  (List.range height).map (rowOffEntry rowpattern sbs)

/-- The derived registers with these sizes and BASETICKS `t` (10_state.md R17). -/
def derivedOf (z : Sizes) (t : Nat) : DerivedRegs where
  rowpattern := BitVec.ofNat 6 z.rowpattern
  w8 := BitVec.ofNat 13 z.w8
  nrows := BitVec.ofNat 13 z.nrows
  pcb := BitVec.ofNat 32 z.pcb
  sbs := BitVec.ofNat 32 z.sbs
  bufsize := BitVec.ofNat 32 z.bufsize
  fbsize := BitVec.ofNat 32 z.fbsize
  nbuf := BitVec.ofNat 2 z.nbuf
  baseticks := BitVec.ofNat 32 t

/-- The state an accepted INIT leaves (R81), with sizes `z` and BASETICKS `t`. -/
def State.initialised (z : Sizes) (t : Nat) (s : State) : State :=
  { s with
    life := .idle
    der := derivedOf z t
    muxseq := muxSeqTable z.rowpattern z.sbs
    rowoff := rowOffTable s.cfg.height.toNat z.rowpattern z.sbs
    sel := false
    fb := s.fb.create (z.nbuf * z.fbsize) }

/-- `baseticks()` at INIT, from the sizes just derived (R81, R85). -/
def State.initTicks (s : State) : Option Nat :=
  let z := deriveSizes s.cfg
  baseticks s.params.tickHz s.cfg.fps.toNat z.rowpattern s.cfg.colordepth.toNat z.sbs s.cfg.bushz.toNat

/-- The bytes INIT would create fit FB_CAPACITY and the 32-bit addresses (R83). -/
def State.fitsMemory (s : State) : Bool :=
  let z := deriveSizes s.cfg
  decide (z.nbuf * z.fbsize ≤ min s.params.fbCapacity (2 ^ 32))

/-- INIT (R81). -/
def execInit (s : State) : Host.Outcome State Fault Refusal :=
  if !s.life.isUninit then .next (s.refuse .badstate)
  else if !geometryOk s.cfg then .next (s.refuse .badgeom)
  else if !s.fitsMemory then .next (s.refuse .nomem)
  else match s.initTicks with
    | none => .next (s.refuse .badgeom)
    | some t => .next (s.initialised (deriveSizes s.cfg) t)

end Sys2Proof.Machine
end

