-- ==== Sys2Proof/Machine/Setters.lean ====
section
/-! DEFINITION. The fifteen setters (40_config.md R80, R88 to R102), each one indivisible HOST step: the lock check, then
the value check, then the register write (30_encoding.md R69). -/

namespace Sys2Proof.Machine

/-- The lock {UNINIT} (40_config.md R80). -/
def Life.geometryOpen (l : Life) : Bool := l.isUninit

/-- The lock {UNINIT, IDLE} (40_config.md R80). -/
def Life.translatorOpen (l : Life) : Bool := !l.isArmed

/-- The common behaviour of a setter (40_config.md R80): `newRegs` is none where the value is not legal. -/
def State.setReg (isOpen : Bool) (newRegs : Option ConfigRegs) (s : State) : Host.Outcome State Fault Refusal :=
  if !isOpen then .next (s.refuse .locked)
  else match newRegs with
    | none => .next (s.refuse .badvalue)
    | some c => .next { s with cfg := c }

/-- A register value, if the operand is in its legal range. -/
def legalIf (ok : Bool) (c : ConfigRegs) : Option ConfigRegs := if ok then some c else none

/-- SETWIDTH (R88). -/
def execSetwidth (v : Nat) (s : State) : Host.Outcome State Fault Refusal :=
  s.setReg s.life.geometryOpen (legalIf (decide (v ≤ 32767)) { s.cfg with width := BitVec.ofNat 16 v })

/-- SETHEIGHT (R89). -/
def execSetheight (v : Nat) (s : State) : Host.Outcome State Fault Refusal :=
  s.setReg s.life.geometryOpen (legalIf (decide (v ≤ 32767)) { s.cfg with height := BitVec.ofNat 16 v })

/-- SETMUXBITS (R90). -/
def execSetmuxbits (v : Nat) (s : State) : Host.Outcome State Fault Refusal :=
  s.setReg s.life.geometryOpen (legalIf (decide (v ≤ 7)) { s.cfg with muxbits := BitVec.ofNat 3 v })

/-- The clamp of COLORDEPTH into 1..8 (R91). -/
def clampColordepth (v : Nat) : BitVec 4 := BitVec.ofNat 4 (min (max v 1) 8)

/-- SETCOLORDEPTH (R91): every value is accepted and clamped. -/
def execSetcolordepth (v : Nat) (s : State) : Host.Outcome State Fault Refusal :=
  s.setReg s.life.geometryOpen (some { s.cfg with colordepth := clampColordepth v })

/-- SETDBUF (R92). -/
def execSetdbuf (v : Nat) (s : State) : Host.Outcome State Fault Refusal :=
  s.setReg s.life.geometryOpen ((bitOf v).map fun b => { s.cfg with dbuf := b })

/-- SETPANELS (R93). -/
def execSetpanels (v : Nat) (s : State) : Host.Outcome State Fault Refusal :=
  s.setReg s.life.translatorOpen
    (legalIf (decide (1 ≤ v ∧ v ≤ 255)) { s.cfg with panels := BitVec.ofNat 8 v })

/-- SETROTATE (R94). -/
def execSetrotate (v : Nat) (s : State) : Host.Outcome State Fault Refusal :=
  s.setReg s.life.translatorOpen ((bitOf v).map fun b => { s.cfg with rotate := b })

/-- SETFLIP (R95): 1 disables the horizontal mirror. -/
def execSetflip (v : Nat) (s : State) : Host.Outcome State Fault Refusal :=
  s.setReg s.life.translatorOpen ((bitOf v).map fun b => { s.cfg with flip := b })

/-- SETCOLORORDER (R96). -/
def execSetcolororder (v : Nat) (s : State) : Host.Outcome State Fault Refusal :=
  s.setReg s.life.translatorOpen ((colorOrderOf v).map fun o => { s.cfg with colororder := o })

/-- SETSCANPATTERN (R97). -/
def execSetscanpattern (v : Nat) (s : State) : Host.Outcome State Fault Refusal :=
  s.setReg s.life.translatorOpen ((scanPatternOf v).map fun p => { s.cfg with scanpattern := p })

/-- SETBLOCKPATTERN (R98). -/
def execSetblockpattern (v : Nat) (s : State) : Host.Outcome State Fault Refusal :=
  s.setReg s.life.translatorOpen ((blockPatternOf v).map fun p => { s.cfg with blockpattern := p })

/-- SETCOLOROFFSET (R99). -/
def execSetcoloroffset (v : Nat) (s : State) : Host.Outcome State Fault Refusal :=
  s.setReg s.life.translatorOpen
    (legalIf (decide (v ≤ 0xFFFFFF)) { s.cfg with coloroffset := BitVec.ofNat 24 v })

/-- SETBRIGHTNESS (R100): stored, read by no rule (43_scheduler.md R172). -/
def execSetbrightness (v : Nat) (s : State) : Host.Outcome State Fault Refusal :=
  s.setReg true (legalIf (decide (v ≤ 255)) { s.cfg with brightness := BitVec.ofNat 8 v })

/-- `baseticks()` with these FPS and BUSHZ and the geometry INIT fixed (R85, R101, R102). -/
def State.ticksWith (fps bushz : Nat) (s : State) : Option Nat :=
  baseticks s.params.tickHz fps s.der.rowpattern.toNat s.cfg.colordepth.toNat s.der.sbs.toNat bushz

/-- A timing setter (R101, R102): in UNINIT the register alone is written, else BASETICKS is computed with the new
value and an overflow is refused with BADVALUE. -/
def State.setTiming (legal : Bool) (fps : BitVec 16) (bushz : BitVec 32) (s : State) :
    Host.Outcome State Fault Refusal :=
  if !legal then .next (s.refuse .badvalue)
  else if s.life.isUninit then .next { s with cfg := { s.cfg with fps := fps, bushz := bushz } }
  else match s.ticksWith fps.toNat bushz.toNat with
    | none => .next (s.refuse .badvalue)
    | some t => .next { s with
        cfg := { s.cfg with fps := fps, bushz := bushz }
        der := { s.der with baseticks := BitVec.ofNat 32 t } }

/-- SETFPS (R101). -/
def execSetfps (v : Nat) (s : State) : Host.Outcome State Fault Refusal :=
  s.setTiming (decide (v ≤ 65535)) (BitVec.ofNat 16 v) s.cfg.bushz

/-- SETBUSHZ (R102). -/
def execSetbushz (v : Nat) (s : State) : Host.Outcome State Fault Refusal :=
  s.setTiming (decide (1 ≤ v ∧ v ≤ 2 ^ 32 - 1)) s.cfg.fps (BitVec.ofNat 32 v)

end Sys2Proof.Machine
end

