-- ==== Sys2Proof/Machine/Dispatch.lean ====
section
/-! DEFINITION. One arm per command of spec/opcode_table.json, each a direct call of its meaning. -/

namespace Sys2Proof.Machine

def exec (i : Instr) (s : State) : Host.Outcome State Fault Refusal :=
  match i with
  | .init => Sys2Proof.Machine.execInit s
  | .enable => Sys2Proof.Machine.execEnable s
  | .disable => Sys2Proof.Machine.execDisable s
  | .swap => Sys2Proof.Machine.execSwap s
  | .clear sel => Sys2Proof.Machine.execClear sel s
  | .copy dir => Sys2Proof.Machine.execCopy dir s
  | .setpixel x y r g b => Sys2Proof.Machine.execSetpixel x y r g b s
  | .setpixel565 x y c => Sys2Proof.Machine.execSetpixel565 x y c s
  | .getpixel x y => Sys2Proof.Machine.execGetpixel x y s
  | .setwidth v => Sys2Proof.Machine.execSetwidth v s
  | .setheight v => Sys2Proof.Machine.execSetheight v s
  | .setmuxbits v => Sys2Proof.Machine.execSetmuxbits v s
  | .setcolordepth v => Sys2Proof.Machine.execSetcolordepth v s
  | .setdbuf v => Sys2Proof.Machine.execSetdbuf v s
  | .setpanels v => Sys2Proof.Machine.execSetpanels v s
  | .setrotate v => Sys2Proof.Machine.execSetrotate v s
  | .setflip v => Sys2Proof.Machine.execSetflip v s
  | .setcolororder v => Sys2Proof.Machine.execSetcolororder v s
  | .setscanpattern v => Sys2Proof.Machine.execSetscanpattern v s
  | .setblockpattern v => Sys2Proof.Machine.execSetblockpattern v s
  | .setcoloroffset v => Sys2Proof.Machine.execSetcoloroffset v s
  | .setbrightness v => Sys2Proof.Machine.execSetbrightness v s
  | .setfps v => Sys2Proof.Machine.execSetfps v s
  | .setbushz v => Sys2Proof.Machine.execSetbushz v s

end Sys2Proof.Machine
end

