-- ==== Sys2Proof/Machine/TxEngine.lean ====
section
/-! DEFINITION. The serial engine, agent TXENG (43_scheduler.md R168). -/

namespace Sys2Proof.Machine

/-- The step of TXENG (R168): the next byte of the transfer in flight, or its completion. With no transfer in flight it
has no step. -/
def State.txStep (s : State) : Host.Outcome State Fault Refusal :=
  if !s.tx.busy then .next s
  else if s.tx.pos.toNat < s.tx.len.toNat then
    match s.fb.read (s.tx.addr.toNat + s.tx.pos.toNat : Nat) with
    | none => .fault .noSuchByte
    | some v =>
      .next ({ s with tx := { s.tx with pos := BitVec.ofNat 32 (s.tx.pos.toNat + 1) } }.emit (.txByte v))
  else if s.tx.pos = s.tx.len then
    .next ({ s with tx := { s.tx with busy := false } }.emit .txDone)
  else .next s

/-- The bits of a byte in the order they leave on the serial wire (20_memory.md R44, parameter TX_MSB_FIRST). -/
def wireBits (v : Byte) : List Bool :=
  (List.range 8).map fun i => v.getLsbD (if Config.txMsbFirst then 7 - i else i)

/-- The bits an output trace puts on the serial wire, in order (43_scheduler.md R168). -/
def serialBits : List TraceEvent → List Bool
  | [] => []
  | .txByte v :: es => wireBits v ++ serialBits es
  | .gpoSet _ :: es => serialBits es
  | .gpoClr _ :: es => serialBits es
  | .timerArm _ :: es => serialBits es
  | .timerDetach :: es => serialBits es
  | .txStart _ _ :: es => serialBits es
  | .resp _ :: es => serialBits es
  | .txDone :: es => serialBits es

end Sys2Proof.Machine
end

