-- ==== Sys2Proof/Machine/Turns.lean ====
section
/-! DEFINITION. Whose step comes next (20_memory.md R46, R47; log 1), the step of HOST at the command port
(30_encoding.md R60, 20_memory.md R48; log 3), and the reset event (10_state.md R27; log 11). -/

namespace Sys2Proof.Machine

/-- The next turn: the one decided from outside, else a free choice (log 1). -/
def State.nextTurn (s : State) : Turn :=
  match s.schedule with
  | t :: _ => t
  | [] => Config.freeTurn s.turn

/-- The state with its next turn taken off the schedule. -/
def State.takeTurn (s : State) : State :=
  { s with schedule := s.schedule.tail, turn := s.turn + 1 }

/-- HOST takes a command word: decode, then the command, or the refusal of an illegal word with ILLEGAL
(30_encoding.md R65). -/
def State.runWord (w : Word) (s : State) : Host.Outcome State Fault Refusal :=
  match decode w with
  | .ok i => exec i s
  | .illegal _ => .next (s.refuse .illegal)

/-- The step of HOST (20_memory.md R46, R48): the next byte step of the command in progress, else the next word of the
port; with no word presented HOST has no step. -/
def State.hostStep (s : State) : Host.Outcome State Fault Refusal :=
  match s.hostOp with
  | .ready =>
    match s.port with
    | [] => .next s
    | w :: rest => { s with port := rest }.runWord w
  | .scatter _ _ _ _ _ _ _ => s.hostByteStep
  | .clear _ _ => s.hostByteStep
  | .copy _ _ _ => s.hostByteStep

/-- The reset event (10_state.md R27, 70_reset_and_hazards.md R220): every piece of state at its reset value; the
parameters, the inputs not yet consumed and the model's own counters stay (log 11). -/
def State.resetEvent (s : State) : State :=
  { State.reset with
    params := s.params
    fb := s.fb.discard
    port := s.port
    schedule := s.schedule
    turn := s.turn }

/-- The step of the agent whose turn it is. -/
def State.turnStep (t : Turn) (s : State) : Host.Outcome State Fault Refusal :=
  match t with
  | .host => s.hostStep
  | .sched => s.schedStep
  | .txeng => s.txStep
  | .reset => .next s.resetEvent

/-- The state with the word whose low `nbits` bits are those of `w` presented first at the port, no command in
progress and the next turn HOST's. -/
def State.presentWord (nbits w : Nat) (s : State) : State :=
  { s with
    hostOp := .ready
    port := BitVec.ofNat 64 (w % 2 ^ nbits) :: s.port
    schedule := .host :: s.schedule }

end Sys2Proof.Machine
end

