-- ==== Sys2Proof/Machine/Step.lean ====
section
/-! DEFINITION. One step of the machine, and the state whose next step runs a given word. -/

namespace Sys2Proof.Machine

/-- One step: the next turn is taken, and its agent steps (20_memory.md R46, R47). -/
def step (s : State) : Host.Outcome State Fault Refusal :=
  s.takeTurn.turnStep s.nextTurn

/-- `s` with the command word presented where the next step takes it. -/
def State.withFetchWord (s : State) (nbits w : Nat) : State := s.presentWord nbits w

end Sys2Proof.Machine
end

