-- ==== Sys2Proof/Safety.lean ====
section
/-! DEFINITION. What claims speak of: the invariants of the block (10_state.md R28, R29, 20_memory.md R56,
43_scheduler.md R169), runs without a timing violation (60_exceptions.md R197), and the end of a run
(70_reset_and_hazards.md R233). -/

namespace Sys2Proof.Machine

/-- What INIT fixed still holds (40_config.md R82 to R87, 10_state.md R17, R19, R20, R21): the geometry is one INIT
accepts, and sizes, timing, tables and memory are the ones it derives from the configuration registers. -/
structure State.Initialised (s : State) : Prop where
  geometry : geometryOk s.cfg = true
  derived : s.der = derivedOf (deriveSizes s.cfg) s.der.baseticks.toNat
  ticks : s.ticksWith s.cfg.fps.toNat s.cfg.bushz.toNat = some s.der.baseticks.toNat
  muxseq : s.muxseq = muxSeqTable s.der.rowpattern.toNat s.der.sbs.toNat
  rowoff : s.rowoff = rowOffTable s.cfg.height.toNat s.der.rowpattern.toNat s.der.sbs.toNat
  memory : s.fb.size = (deriveSizes s.cfg).nbuf * (deriveSizes s.cfg).fbsize
  addressable : s.fb.size ≤ 2 ^ 32

/-- The refresh position is inside the display buffer, at the scan group of its row and bit-plane (10_state.md R29). -/
structure State.PositionOk (s : State) (pos : RefreshPos) : Prop where
  row : pos.row.toNat < s.der.rowpattern.toNat
  plane : pos.plane.toNat < s.cfg.colordepth.toNat
  cursor : pos.cursor.toNat =
    s.dispBase + (s.muxEntry pos.row.toNat).offset.toNat + pos.plane.toNat * s.der.bufsize.toNat

/-- A buffer of FBSIZE bytes at `base` lies in the memory that exists. -/
def State.bufferAt (s : State) (base : Nat) : Prop := base + s.der.fbsize.toNat ≤ s.fb.size

/-- The byte steps still to come stay inside a buffer (20_memory.md R56). -/
def State.HostOpOk (s : State) : Prop :=
  match s.hostOp with
  | .ready => True
  | .scatter base redOff bit _ _ _ k =>
    s.bufferAt base ∧ 2 * (s.der.pcb.toNat : Int) ≤ redOff ∧ redOff < (s.der.bufsize.toNat : Int) ∧ bit ≤ 7 ∧
      k < 3 * s.cfg.colordepth.toNat
  | .clear base k => s.bufferAt base ∧ k < s.der.fbsize.toNat
  | .copy src dst k => s.bufferAt src ∧ s.bufferAt dst ∧ k < s.der.fbsize.toNat

/-- The invariant every run from reset keeps (10_state.md R13 to R29, 20_memory.md R56). -/
structure State.Inv (s : State) : Prop where
  /-- FB has its canonical form -/
  memoryForm : s.fb.wf = true
  /-- ERRCODE is 0 exactly while REFUSED is 0 (R13) -/
  refusal : s.refused = false ↔ s.errcode = .none
  /-- legal register values (R14, R15, 40_config.md R88, R89) -/
  widthLegal : s.cfg.width.toNat ≤ 32767
  heightLegal : s.cfg.height.toNat ≤ 32767
  colordepthLegal : 1 ≤ s.cfg.colordepth.toNat ∧ s.cfg.colordepth.toNat ≤ 8
  panelsLegal : 1 ≤ s.cfg.panels.toNat
  /-- no FB byte and no command in progress before INIT (R28) -/
  emptyBefore : s.life = .uninit → s.fb.size = 0 ∧ s.hostOp = .ready ∧ s.sel = false
  /-- what INIT fixed, after it -/
  initialised : s.life ≠ .uninit → s.Initialised
  /-- STATE = ARMED exactly when TARMED = 1 (R28) -/
  timer : s.tarmed = s.life.isArmed
  /-- R29 -/
  position : ∀ pos, s.life = .armed pos → s.PositionOk pos
  /-- with one buffer SEL stays 0 (R18) -/
  oneBuffer : s.cfg.dbuf = false → s.sel = false
  /-- a transfer in flight stays inside FB (R23, 20_memory.md R56) -/
  engine : s.tx.pos.toNat ≤ s.tx.len.toNat
  engineInside : s.tx.busy = true → s.tx.addr.toNat + s.tx.len.toNat ≤ s.fb.size
  /-- the command in progress stays inside FB (20_memory.md R56) -/
  command : s.HostOpOk

/-- The five address lines of GPO as a number (10_state.md R22). -/
def State.rowAddress (s : State) : Nat := (s.gpo &&& 0x1F#7).toNat

/-- The address lines follow the mux sequence (43_scheduler.md R169): in the later bit-planes of a row they hold its
Gray code, in the first bit-plane still that of the row before, or 0 right after ENABLE; output-enable is deasserted
outside ARMED (10_state.md R12), latch is 0 between steps, and lines MUXBITS..4 are never driven (10_state.md R22). -/
structure State.LinesInv (s : State) : Prop where
  unused : s.rowAddress < 2 ^ s.cfg.muxbits.toNat
  latch : s.gpo &&& Config.latMask = 0
  blank : s.life.isArmed = false → s.gpo &&& Config.oeMask = 0
  quiet : s.life = .uninit → s.gpo = 0
  rows : ∀ pos, s.life = .armed pos →
    if pos.plane = 0#3 then
      s.rowAddress = gray ((pos.row.toNat + s.der.rowpattern.toNat - 1) % s.der.rowpattern.toNat) ∨
        (pos.row = 0#5 ∧ s.rowAddress = 0)
    else s.rowAddress = gray pos.row.toNat

/-- The TICK that the machine would now take finds the last transfer unfinished (43_scheduler.md R167). -/
def State.violates (s : State) : Bool := s.life.isArmed && s.tarmed && s.tx.busy

/-- No step of a run of `n` steps from `s` is a fault: the premise "no TimingViolation recorded" of every claim about a
run (60_exceptions.md R197). -/
def State.SafeFor (n : Nat) (s : State) : Prop := ∀ k, k ≤ n → ∀ r, Host.Core.run Sys2Proof.core k s ≠ .fault r

/-- How many TICKs an output trace holds: every TICK starts one transfer and nothing else starts any
(43_scheduler.md R164, R167; log 21). -/
def tickCount : List TraceEvent → Nat
  | [] => 0
  | .txStart _ _ :: es => tickCount es + 1
  | .gpoSet _ :: es => tickCount es
  | .gpoClr _ :: es => tickCount es
  | .timerArm _ :: es => tickCount es
  | .timerDetach :: es => tickCount es
  | .resp _ :: es => tickCount es
  | .txByte _ :: es => tickCount es
  | .txDone :: es => tickCount es

/-- The TICKs a claim considers have all been taken; `none` is a claim that fixes no number of them
(70_reset_and_hazards.md R233; log 21). -/
def ticksTaken (ticks : Option Nat) (trace : List TraceEvent) : Bool :=
  match ticks with
  | none => false
  | some n => decide (n ≤ tickCount trace)

/-- A run is over (70_reset_and_hazards.md R233): no more commands, no command in progress, no transfer in flight, and
either the scheduler not armed, or the claim at hand has fixed how many TICKs it considers and they have been taken. -/
def State.over (ticks : Option Nat) (s : State) : Bool :=
  s.port.isEmpty && decide (s.hostOp = .ready) && !s.tx.busy && (!s.life.isArmed || ticksTaken ticks s.trace)

/-- `n` TICKs, each taken with the engine free: what SCHED alone does to the block (43_scheduler.md R164, R165). -/
def State.ticks : Nat → State → State
  | 0, s => s
  | n + 1, s =>
    match s.life with
    | .armed pos => State.ticks n (s.tick pos)
    | .uninit => s
    | .idle => s

/-- The sum of the counts an output trace hands to the timer (43_scheduler.md R171). -/
def armedTotal : List TraceEvent → Nat
  | [] => 0
  | .timerArm n :: es => n.toNat + armedTotal es
  | .gpoSet _ :: es => armedTotal es
  | .gpoClr _ :: es => armedTotal es
  | .timerDetach :: es => armedTotal es
  | .txStart _ _ :: es => armedTotal es
  | .resp _ :: es => armedTotal es
  | .txByte _ :: es => armedTotal es
  | .txDone :: es => armedTotal es

/-- `n` steps of TXENG, with no step of another agent between them (43_scheduler.md R168). -/
def State.txSteps : Nat → State → Host.Outcome State Fault Refusal
  | 0, s => .next s
  | n + 1, s =>
    match s.txStep with
    | .next t => State.txSteps n t
    | .fault r => .fault r
    | .refused r => .refused r

/-! ## Words that statements share -/

/-- The command the next step runs, if it runs one (30_encoding.md R60, 20_memory.md R48). -/
def State.command (s : State) : Option Instr :=
  match s.nextTurn, s.hostOp, s.port with
  | .host, .ready, w :: _ =>
    match decode w with
    | .ok i => some i
    | .illegal _ => none
  | _, _, _ => none

/-- The rule of a setter (40_config.md R80): on every operand and in every state it completes, refused with LOCKED where
its lock is shut, refused with BADVALUE where the value is not legal, else with the one register written. -/
def SetterRule (isOpen : Life → Bool) (legal : Nat → Bool) (ins : Nat → Instr)
    (upd : Nat → ConfigRegs → ConfigRegs) : Prop :=
  ∀ (v : Nat) (s : State), exec (ins v) s = .next
    (if isOpen s.life = false then s.refuse .locked
     else if legal v = false then s.refuse .badvalue
     else { s with cfg := upd v s.cfg })

/-- The encoding of a setter (30_encoding.md R61, R64): format W with this REG. -/
def SetterEncoded (reg : BitVec 8) (ins : Nat → Instr) : Prop :=
  ∀ v : Nat, v < 2 ^ 32 → decode (0x10#8 ++ reg ++ 0#16 ++ BitVec.ofNat 32 v : BitVec 64) = .ok (ins v)

/-- The answer with its next state changed by `f`. -/
def mapNext (f : State → State) : Host.Outcome State Fault Refusal → Host.Outcome State Fault Refusal
  | .next t => .next (f t)
  | .fault r => .fault r
  | .refused r => .refused r

/-- The state with another BRIGHTNESS (43_scheduler.md R172). -/
def State.withBrightness (b : BitVec 8) (s : State) : State := { s with cfg := { s.cfg with brightness := b } }

/-- A coordinate inside the logical panel (41_translator.md R135). -/
def State.inLogicalPanel (s : State) (x y : Int) : Prop :=
  if s.cfg.rotate then
    0 ≤ x ∧ x < (s.cfg.height.toNat : Int) ∧ 0 ≤ y ∧ y < (s.cfg.width.toNat : Int)
  else 0 ≤ x ∧ x < (s.cfg.width.toNat : Int) ∧ 0 ≤ y ∧ y < (s.cfg.height.toNat : Int)

/-- The configurations of 41_translator.md R135: initialised, preconditions hold, and with rotation and DBCA together
the panel is square. -/
structure State.TranslatorReady (s : State) : Prop where
  inv : s.Inv
  ready : s.life ≠ .uninit
  precond : s.precondOk = true
  square : s.cfg.rotate = true → s.cfg.blockpattern = .dbca → s.cfg.width = s.cfg.height

/-- The value a pixel of wire channel `c` holds in the buffer at `base` (41_translator.md R133): the sum of 2^p over
the bit-planes whose bit is set. -/
def State.pixelValue (s : State) (base : Nat) (redOff : Int) (bit c : Nat) : Nat :=
  ((List.range s.cfg.colordepth.toNat).map fun p =>
    match s.fb.read (s.laneAddr base redOff p c) with
    | some v => if v.getLsbD bit then 2 ^ p else 0
    | none => 0).sum

end Sys2Proof.Machine
end

