-- ==== Sys2Proof/Certificates/Slice0/Obligations.lean ====
section
/-! DEFINITION. The statements for the provers, each formalising rules of spec/ or the model's own invariants. -/

open Sys2Proof Sys2Proof.Machine

/-! ## Encoding -/

/-- Every well-formed command survives encoding and decoding (30_encoding.md, sections 2 and 3). -/
def Obligations.DecodeOfEncode : Prop :=
  ∀ i : Instr, i.wellFormed = true → decode (encode i) = .ok i

/-- A word that decodes is the one encoding of a well-formed command: no bit of a legal word is dropped
(30_encoding.md, sections 2 to 4). -/
def Obligations.EncodeOfDecode : Prop :=
  ∀ (w : Word) (i : Instr), decode w = .ok i → i.wellFormed = true ∧ encode i = w

/-- The decoder accepts exactly the words of the 24 rows of spec/opcode_table.json, each by mask and match, and a word
belongs to at most one row. -/
def Obligations.DecoderAcceptsTheTable : Prop :=
  (∀ w : Word, (∃ i, decode w = .ok i) ↔ ∃ row ∈ opcodeRows, w &&& row.1 = row.2) ∧
  (∀ w : Word, (opcodeRows.filter fun row => w &&& row.1 = row.2).length ≤ 1)

/-- HOST refuses a word of no row of the opcode table with ILLEGAL, and changes no other state (30_encoding.md
section 4). That the word and the turn come from lists of the state is the model's choice (log 1, log 3). -/
def Obligations.IllegalWordRefused : Prop :=
  ∀ (s : State) (w : Word) (rest : List Word),
    s.nextTurn = .host → s.hostOp = .ready → s.port = w :: rest → (∀ row ∈ opcodeRows, w &&& row.1 ≠ row.2) →
    step s = .next { s with
      port := rest, schedule := s.schedule.tail, turn := s.turn + 1, refused := true, errcode := .illegal }

/-- Every word of 30_encoding.md section 6 and of 95_test_vectors.md section 2.1 decodes to its command, and every illegal
word of the latter is illegal. -/
def Obligations.WorkedEncodingsDecode : Prop :=
  (decode 0x0100000000000000#64 = .ok .init ∧
    decode 0x0200000000000000#64 = .ok .enable ∧
    decode 0x0300000000000000#64 = .ok .disable ∧
    decode 0x0400000000000000#64 = .ok .swap ∧
    decode 0x0500000000000000#64 = .ok (.clear .edit) ∧
    decode 0x0500000000000001#64 = .ok (.clear .display) ∧
    decode 0x0600000000000000#64 = .ok (.copy .d2e) ∧
    decode 0x0600000000000001#64 = .ok (.copy .e2d)) ∧
  (decode 0x0800000000FF0000#64 = .ok (.setpixel 0 0 255 0 0) ∧
    decode 0x08FFFF0005010203#64 = .ok (.setpixel (-1) 5 1 2 3) ∧
    decode 0x0800090001FF8040#64 = .ok (.setpixel 9 1 255 128 64) ∧
    decode 0x0880007FFF000000#64 = .ok (.setpixel (-32768) 32767 0 0 0) ∧
    decode 0x0900030002F80000#64 = .ok (.setpixel565 3 2 0xF800) ∧
    decode 0x090000000007E000#64 = .ok (.setpixel565 0 0 0x07E0) ∧
    decode 0x0A001F001F000000#64 = .ok (.getpixel 31 31)) ∧
  (decode 0x1001000000000020#64 = .ok (.setwidth 32) ∧
    decode 0x1003000000000004#64 = .ok (.setmuxbits 4) ∧
    decode 0x100F000001312D00#64 = .ok (.setbushz 20000000) ∧
    decode 0x100C000000100000#64 = .ok (.setcoloroffset 0x100000)) ∧
  (decode 0x0000000000000000#64 = .illegal .reservedOpc ∧
    decode 0xFFFFFFFFFFFFFFFF#64 = .illegal .reservedOpc ∧
    decode 0x0700000000000000#64 = .illegal .reservedOpc ∧
    decode 0x0B00000000000000#64 = .illegal .reservedOpc ∧
    decode 0x0100000000000001#64 = .illegal .nonzeroZero ∧
    decode 0x0500000000000002#64 = .illegal .nonzeroZero ∧
    decode 0x09000000000000FF#64 = .illegal .nonzeroZero ∧
    decode 0x0A00000000000001#64 = .illegal .nonzeroZero ∧
    decode 0x1000000000000000#64 = .illegal .reservedReg ∧
    decode 0x1010000000000000#64 = .illegal .reservedReg ∧
    decode 0x1001000100000020#64 = .illegal .nonzeroZero)

/-! ## Steps -/

/-- A HOST turn with a decodable word at the port runs that command on the state without the word and the turn. That the
word and the turn come from lists of the state is the model's choice (log 1, log 3). -/
def Obligations.StepRunsDecodedCommand : Prop :=
  ∀ (s : State) (w : Word) (rest : List Word) (i : Instr),
    s.nextTurn = .host → s.hostOp = .ready → s.port = w :: rest → decode w = .ok i →
    step s = exec i { s with port := rest, schedule := s.schedule.tail, turn := s.turn + 1 }

/-- Every other step: the byte steps of a command in progress, the waiting host, the steps of the other agents, and reset
(20_memory.md section 3); and a run that is over stands still but for the TICKs the claim at hand does not consider
(70_reset_and_hazards.md section 4). Where the turn comes from, that the host waits with no word presented, that reset is
a turn, and how TICKs are counted are the model's choice or reading (log 1, log 3, log 11, log 21). -/
def Obligations.StepTakesTheTurn : Prop :=
  ∀ s : State,
    (s.nextTurn = .host → s.hostOp ≠ .ready → step s = s.takeTurn.hostByteStep) ∧
    (s.nextTurn = .host → s.hostOp = .ready → s.port = [] → step s = .next s.takeTurn) ∧
    (s.nextTurn = .sched → step s = s.takeTurn.schedStep) ∧
    (s.nextTurn = .txeng → step s = s.takeTurn.txStep) ∧
    (s.nextTurn = .reset → step s = .next s.takeTurn.resetEvent) ∧
    (∀ ticks, s.over ticks = true → (s.nextTurn = .host ∨ s.nextTurn = .txeng) → step s = .next s.takeTurn) ∧
    (s.over none = true → s.nextTurn = .sched → step s = .next s.takeTurn)

/-- No step is refused: every command has a meaning. -/
def Obligations.NoStepIsRefused : Prop :=
  ∀ (s : State) (r : Refusal), step s ≠ .refused r

/-! ## Configuration -/

/-- R88, R89, R90, R92: the geometry setters but COLORDEPTH. -/
def Obligations.GeometrySettersWrite : Prop :=
  (SetterRule (fun l => decide (l = .uninit)) (fun v => decide (v ≤ 32767)) .setwidth
      (fun v c => { c with width := BitVec.ofNat 16 v }) ∧ SetterEncoded 0x01#8 .setwidth) ∧
  (SetterRule (fun l => decide (l = .uninit)) (fun v => decide (v ≤ 32767)) .setheight
      (fun v c => { c with height := BitVec.ofNat 16 v }) ∧ SetterEncoded 0x02#8 .setheight) ∧
  (SetterRule (fun l => decide (l = .uninit)) (fun v => decide (v ≤ 7)) .setmuxbits
      (fun v c => { c with muxbits := BitVec.ofNat 3 v }) ∧ SetterEncoded 0x03#8 .setmuxbits) ∧
  (SetterRule (fun l => decide (l = .uninit)) (fun v => decide (v ≤ 1)) .setdbuf
      (fun v c => { c with dbuf := decide (v = 1) }) ∧ SetterEncoded 0x05#8 .setdbuf)

/-- R91: SETCOLORDEPTH clamps every value into 1..8 and refuses only by its lock. -/
def Obligations.ColordepthIsClamped : Prop :=
  (∀ (v : Nat) (s : State), exec (.setcolordepth v) s = .next
    (if s.life = .uninit then { s with cfg := { s.cfg with colordepth := BitVec.ofNat 4 (min (max v 1) 8) } }
     else s.refuse .locked)) ∧
  SetterEncoded 0x04#8 .setcolordepth

/-- R93 to R99: the translator setters, shut while ARMED. -/
def Obligations.TranslatorSettersWrite : Prop :=
  (SetterRule (fun l => !l.isArmed) (fun v => decide (1 ≤ v ∧ v ≤ 255)) .setpanels
      (fun v c => { c with panels := BitVec.ofNat 8 v }) ∧ SetterEncoded 0x06#8 .setpanels) ∧
  (SetterRule (fun l => !l.isArmed) (fun v => decide (v ≤ 1)) .setrotate
      (fun v c => { c with rotate := decide (v = 1) }) ∧ SetterEncoded 0x07#8 .setrotate) ∧
  (SetterRule (fun l => !l.isArmed) (fun v => decide (v ≤ 1)) .setflip
      (fun v c => { c with flip := decide (v = 1) }) ∧ SetterEncoded 0x08#8 .setflip) ∧
  (SetterRule (fun l => !l.isArmed) (fun v => decide (v ≤ 5)) .setcolororder
      (fun v c => { c with colororder := [ColorOrder.rgb, .rbg, .grb, .gbr, .brg, .bgr].getD v .rgb }) ∧
    SetterEncoded 0x09#8 .setcolororder) ∧
  (SetterRule (fun l => !l.isArmed) (fun v => decide (v ≤ 8)) .setscanpattern
      (fun v c => { c with scanpattern :=
        [ScanPattern.line, .zigzag, .zzagg, .zaggiz, .wzagzig, .vzag, .zagzig, .wzagzig2, .zziagg].getD v .line }) ∧
    SetterEncoded 0x0A#8 .setscanpattern) ∧
  (SetterRule (fun l => !l.isArmed) (fun v => decide (v ≤ 1)) .setblockpattern
      (fun v c => { c with blockpattern := if v = 1 then .dbca else .abcd }) ∧
    SetterEncoded 0x0B#8 .setblockpattern) ∧
  (SetterRule (fun l => !l.isArmed) (fun v => decide (v ≤ 0xFFFFFF)) .setcoloroffset
      (fun v c => { c with coloroffset := BitVec.ofNat 24 v }) ∧ SetterEncoded 0x0C#8 .setcoloroffset)

/-- R100: SETBRIGHTNESS in any state. -/
def Obligations.BrightnessIsStored : Prop :=
  SetterRule (fun _ => true) (fun v => decide (v ≤ 255)) .setbrightness
    (fun v c => { c with brightness := BitVec.ofNat 8 v }) ∧ SetterEncoded 0x0D#8 .setbrightness

/-- R101: SETFPS stores FPS, outside UNINIT with BASETICKS computed from it, or is refused with BADVALUE. -/
def Obligations.FpsRecomputesBaseticks : Prop :=
  (∀ (v : Nat) (s : State), exec (.setfps v) s = .next
    (if 65535 < v then s.refuse .badvalue
     else if s.life = .uninit then { s with cfg := { s.cfg with fps := BitVec.ofNat 16 v } }
     else match baseticks s.params.tickHz v s.der.rowpattern.toNat s.cfg.colordepth.toNat s.der.sbs.toNat
        s.cfg.bushz.toNat with
      | none => s.refuse .badvalue
      | some t => { s with
          cfg := { s.cfg with fps := BitVec.ofNat 16 v }
          der := { s.der with baseticks := BitVec.ofNat 32 t } })) ∧
  SetterEncoded 0x0E#8 .setfps

/-- R102: SETBUSHZ stores BUSHZ, outside UNINIT with BASETICKS computed from it, or is refused with BADVALUE. -/
def Obligations.BushzRecomputesBaseticks : Prop :=
  (∀ (v : Nat) (s : State), exec (.setbushz v) s = .next
    (if v < 1 ∨ 2 ^ 32 - 1 < v then s.refuse .badvalue
     else if s.life = .uninit then { s with cfg := { s.cfg with bushz := BitVec.ofNat 32 v } }
     else match baseticks s.params.tickHz s.cfg.fps.toNat s.der.rowpattern.toNat s.cfg.colordepth.toNat
        s.der.sbs.toNat v with
      | none => s.refuse .badvalue
      | some t => { s with
          cfg := { s.cfg with bushz := BitVec.ofNat 32 v }
          der := { s.der with baseticks := BitVec.ofNat 32 t } })) ∧
  SetterEncoded 0x0F#8 .setbushz

/-- INIT in UNINIT with an accepted geometry, enough memory and no timer overflow derives the sizes, creates FB
with no byte written, computes the tables, and goes to IDLE; GPO, the trace and the configuration stay (40_config.md
section 2). How the unspecified bytes are represented, `gen` and `cells`, is the model's choice (log 5). -/
def Obligations.InitDerivesAndAllocates : Prop :=
  ∀ (s : State) (rp pcb bufsize nbuf t : Nat),
    s.life = .uninit →
    rp = 2 ^ s.cfg.muxbits.toNat → (s.cfg.muxbits.toNat = 3 ∨ s.cfg.muxbits.toNat = 4 ∨ s.cfg.muxbits.toNat = 5) →
    8 ≤ s.cfg.width.toNat → s.cfg.width.toNat % 8 = 0 →
    rp ≤ s.cfg.height.toNat → s.cfg.height.toNat % rp = 0 → s.cfg.bushz.toNat ≠ 0 →
    pcb = s.cfg.height.toNat / rp * (s.cfg.width.toNat / 8) →
    bufsize = s.cfg.height.toNat * s.cfg.width.toNat * 3 / 8 →
    nbuf = (if s.cfg.dbuf then 2 else 1) →
    nbuf * (s.cfg.colordepth.toNat * bufsize) ≤ s.params.fbCapacity →
    nbuf * (s.cfg.colordepth.toNat * bufsize) ≤ 2 ^ 32 →
    baseticks s.params.tickHz s.cfg.fps.toNat rp s.cfg.colordepth.toNat (3 * pcb) s.cfg.bushz.toNat = some t →
    exec .init s = .next { s with
      life := .idle
      der := {
        rowpattern := BitVec.ofNat 6 rp
        w8 := BitVec.ofNat 13 (s.cfg.width.toNat / 8)
        nrows := BitVec.ofNat 13 (s.cfg.height.toNat / rp)
        pcb := BitVec.ofNat 32 pcb
        sbs := BitVec.ofNat 32 (3 * pcb)
        bufsize := BitVec.ofNat 32 bufsize
        fbsize := BitVec.ofNat 32 (s.cfg.colordepth.toNat * bufsize)
        nbuf := BitVec.ofNat 2 nbuf
        baseticks := BitVec.ofNat 32 t }
      muxseq := muxSeqTable rp (3 * pcb)
      rowoff := rowOffTable s.cfg.height.toNat rp (3 * pcb)
      sel := false
      fb := { size := nbuf * (s.cfg.colordepth.toNat * bufsize), gen := s.fb.gen + 1, cells := [] } }

/-- What INIT is refused with, in the order of its checks, leaving every register as it was (40_config.md section 2). -/
def Obligations.InitRefusals : Prop :=
  ∀ s : State,
    (s.life ≠ .uninit → exec .init s = .next (s.refuse .badstate)) ∧
    (s.life = .uninit → geometryOk s.cfg = false → exec .init s = .next (s.refuse .badgeom)) ∧
    (s.life = .uninit → geometryOk s.cfg = true →
      min s.params.fbCapacity (2 ^ 32) < (deriveSizes s.cfg).nbuf * (deriveSizes s.cfg).fbsize →
      exec .init s = .next (s.refuse .nomem)) ∧
    (s.life = .uninit → geometryOk s.cfg = true →
      (deriveSizes s.cfg).nbuf * (deriveSizes s.cfg).fbsize ≤ min s.params.fbCapacity (2 ^ 32) →
      s.initTicks = none → exec .init s = .next (s.refuse .badgeom))

/-- R82: the geometry INIT accepts. -/
def Obligations.GeometryCheck : Prop :=
  ∀ c : ConfigRegs, geometryOk c = true ↔
    ((c.muxbits.toNat = 3 ∨ c.muxbits.toNat = 4 ∨ c.muxbits.toNat = 5) ∧
      8 ≤ c.width.toNat ∧ c.width.toNat % 8 = 0 ∧
      2 ^ c.muxbits.toNat ≤ c.height.toNat ∧ c.height.toNat % 2 ^ c.muxbits.toNat = 0 ∧ c.bushz.toNat ≠ 0)

/-- R84: under R82, with the widths the setters admit, the derived registers hold the sizes exactly (no register
truncates one), every division is exact, and BUFSIZE = ROWPATTERN * SBS. -/
def Obligations.DerivedSizesExact : Prop :=
  ∀ s : State, s.Inv → s.life ≠ .uninit →
    s.der.rowpattern.toNat = 2 ^ s.cfg.muxbits.toNat ∧
    8 * s.der.w8.toNat = s.cfg.width.toNat ∧
    s.der.rowpattern.toNat * s.der.nrows.toNat = s.cfg.height.toNat ∧
    s.der.pcb.toNat = s.der.nrows.toNat * s.der.w8.toNat ∧
    s.der.sbs.toNat = 3 * s.der.pcb.toNat ∧
    8 * s.der.bufsize.toNat = s.cfg.height.toNat * s.cfg.width.toNat * 3 ∧
    s.der.bufsize.toNat = s.der.rowpattern.toNat * s.der.sbs.toNat ∧
    s.der.fbsize.toNat = s.cfg.colordepth.toNat * s.der.bufsize.toNat ∧
    s.der.nbuf.toNat = (if s.cfg.dbuf then 2 else 1) ∧
    s.fb.size = s.der.nbuf.toNat * s.der.fbsize.toNat ∧ 0 < s.der.pcb.toNat

/-- The base tick count (40_config.md section 2; the rounding, FPS 0 read as 1, the bound 1 and the overflow check are
the choice the spec makes there): with `ideal` rounded down and `floor` the least count in which SBS * 8 bits leave at
BUSHZ, it is max(ideal, floor, 1), and there is none exactly where that count of the highest bit-plane does not fit the
timer; so it keeps the floor, and its count fits in every bit-plane. The two examples given there. -/
def Obligations.BaseticksKeepsTheFloor : Prop :=
  (∀ tickHz fps rp cd sbs bushz ideal floor : Nat, 0 < bushz →
    ideal = tickHz / (max fps 1 * rp * (2 ^ cd - 1)) →
    sbs * 8 * tickHz ≤ floor * bushz → (∀ n, sbs * 8 * tickHz ≤ n * bushz → floor ≤ n) →
    baseticks tickHz fps rp cd sbs bushz =
      if 2 ^ 32 ≤ max (max ideal floor) 1 * 2 ^ (cd - 1) then none else some (max (max ideal floor) 1)) ∧
  (∀ tickHz fps rp cd sbs bushz t p : Nat, 0 < bushz → baseticks tickHz fps rp cd sbs bushz = some t → p < cd →
    sbs * 8 * tickHz ≤ t * bushz ∧ 1 ≤ t ∧ t * 2 ^ p < 2 ^ 32) ∧
  baseticks 1000000 60 16 6 24 20000000 = some 16 ∧ baseticks 1000000 200 16 6 24 20000000 = some 10

/-- R86: for every depth INIT accepts, MUXSEQ[i] changes exactly the one address line in which the Gray codes of
position i and of the position before it differ, in the direction of the new code, and points at the scan group of
row gray(i), where gray(i) is i xor (i >> 1): the row addresses of every depth are those of 95_test_vectors.md
section 1.5. -/
def Obligations.MuxSequenceIsGray : Prop :=
  (∀ m ∈ [3, 4, 5], ∀ i < 2 ^ m, ∀ sbs : Nat,
    ∃ k < m, gray i ^^^ gray ((i + 2 ^ m - 1) % 2 ^ m) = 2 ^ k ∧
      (muxSeqTable (2 ^ m) sbs)[i]? = some {
        cmd := if (gray i).testBit k then .set else .clr
        mask := 1#7 <<< k
        offset := BitVec.ofNat 32 (gray i * sbs) }) ∧
  (∀ i < 32, gray i = i ^^^ (i / 2)) ∧
  (List.range 8).map gray = [0, 1, 3, 2, 6, 7, 5, 4] ∧
  (List.range 16).map gray = [0, 1, 3, 2, 6, 7, 5, 4] ++ [12, 13, 15, 14, 10, 11, 9, 8] ∧
  (List.range 32).map gray = [0, 1, 3, 2, 6, 7, 5, 4] ++ [12, 13, 15, 14, 10, 11, 9, 8] ++
    [24, 25, 27, 26, 30, 31, 29, 28] ++ [20, 21, 23, 22, 18, 19, 17, 16]

/-- R87: ROWOFF[y] is the address, inside a bit-plane, of the last byte of the scan group of row y. -/
def Obligations.RowOffTable : Prop :=
  ∀ s : State, s.Inv → s.life ≠ .uninit → ∀ y, y < s.cfg.height.toNat →
    (s.rowOff y).toNat = y % s.der.rowpattern.toNat * s.der.sbs.toNat + s.der.sbs.toNat - 1

/-! ## The translator -/

/-- 41_translator.md section 3: for positive block sizes step 2 is an involution on all of Z x Z and keeps every 2x2 tile of blocks. -/
def Obligations.BlockSwapIsInvolution : Prop :=
  ∀ (d : DbcaDiag) (dx dy : Int) (p : Int × Int), 0 < dx → 0 < dy →
    swapBlocks d dx dy (swapBlocks d dx dy p) = p ∧
    (swapBlocks d dx dy p).1 / (2 * dx) = p.1 / (2 * dx) ∧ (swapBlocks d dx dy p).2 / (2 * dy) = p.2 / (2 * dy)

/-- R111, R116, R117: the values on the wires. -/
def Obligations.WireValuesOfPixel : Prop :=
  ∀ (s : State) (r g b : Nat), r ≤ 255 → g ≤ 255 → b ≤ 255 → 1 ≤ s.cfg.colordepth.toNat →
    s.cfg.colordepth.toNat ≤ 8 →
    let off := s.cfg.coloroffset.toNat
    let r1 := r - off / 65536
    let g1 := g - off / 256 % 256
    let b1 := b - off % 256
    let shift := 2 ^ (8 - s.cfg.colordepth.toNat)
    s.wireValues ⟨r, g, b⟩ =
      (match s.cfg.colororder with
       | .rgb => ⟨r1 / shift, g1 / shift, b1 / shift⟩
       | .rbg => ⟨r1 / shift, b1 / shift, g1 / shift⟩
       | .grb => ⟨g1 / shift, r1 / shift, b1 / shift⟩
       | .gbr => ⟨g1 / shift, b1 / shift, r1 / shift⟩
       | .brg => ⟨b1 / shift, r1 / shift, g1 / shift⟩
       | .bgr => ⟨b1 / shift, g1 / shift, r1 / shift⟩) ∧
    (s.wireValues ⟨r, g, b⟩).red < 2 ^ s.cfg.colordepth.toNat ∧
    (s.wireValues ⟨r, g, b⟩).green < 2 ^ s.cfg.colordepth.toNat ∧
    (s.wireValues ⟨r, g, b⟩).blue < 2 ^ s.cfg.colordepth.toNat

/-- EXPAND565 as 42_framebuffer.md section 1 gives it (general knowledge, G1; log 12): 8-bit results, exact end points,
and the examples. -/
def Obligations.Expand565Examples : Prop :=
  (∀ c < 65536, (expand565 c).red ≤ 255 ∧ (expand565 c).green ≤ 255 ∧ (expand565 c).blue ≤ 255) ∧
  expand565 0x0000 = ⟨0, 0, 0⟩ ∧ expand565 0xFFFF = ⟨255, 255, 255⟩ ∧ expand565 0xF800 = ⟨255, 0, 0⟩ ∧
  expand565 0x07E0 = ⟨0, 255, 0⟩ ∧ expand565 0x001F = ⟨0, 0, 255⟩ ∧ expand565 0x8410 = ⟨132, 130, 132⟩ ∧
  expand565 0x0821 = ⟨8, 4, 8⟩

/-- Where the translator places a pixel (41_translator.md sections 3, 4 and 6). With `p2`, `p3`, `p4` the coordinate after
the block swap of step 2, the rotation of step 3 and the flip of step 4, `p4` is inside the panel and `q` is `p4`, or for
the three block patterns what BLOCKREMAP makes of it (whatever its block permutation is, log 10): the same panel of the
chain and the same column of a block. The red offset lies in the red sub-block of the scan group of `q`, the last PCB
bytes of the group's SBS, so the pixel lies on all three wires inside one bit-plane; and offset and bit are those of LINE,
of the block patterns, or of the pattern's own correction of step 9, the upper half of the multiplex-row period being the
first ROWPATTERN rows of every 2 * ROWPATTERN. -/
def Obligations.TranslatorStaysInPlane : Prop :=
  ∀ (s : State) (x y redOff : Int) (bit : Nat), s.Inv → s.life ≠ .uninit → s.translate x y = .place redOff bit →
    let width : Int := s.cfg.width.toNat
    let height : Int := s.cfg.height.toNat
    let panels : Nat := s.cfg.panels.toNat
    let dx : Int := width / (2 * panels)
    let dy : Int := height / 4
    let evenCol : Prop := x / dx % 2 = 0
    let evenRow : Prop := y / dy % 2 = 0
    let p2 : Int × Int :=
      match s.cfg.blockpattern, s.params.dbcaDiag with
      | .abcd, _ => (x, y)
      | .dbca, .main =>
        if evenRow ∧ evenCol then (x + dx, y + dy)
        else if ¬ evenRow ∧ ¬ evenCol then (x - dx, y - dy) else (x, y)
      | .dbca, .anti =>
        if evenRow ∧ ¬ evenCol then (x - dx, y + dy)
        else if ¬ evenRow ∧ evenCol then (x + dx, y - dy) else (x, y)
    let p3 : Int × Int := if s.cfg.rotate then (p2.2, height - 1 - p2.1) else p2
    let p4 : Int × Int := if s.cfg.flip then p3 else (width - 1 - p3.1, p3.2)
    let q : Nat × Nat := s.stepRemap p4.1.toNat p4.2.toNat
    let blocks : Prop := s.cfg.scanpattern = .wzagzig ∨ s.cfg.scanpattern = .vzag ∨ s.cfg.scanpattern = .wzagzig2
    let rp : Nat := 2 ^ s.cfg.muxbits.toNat
    let w8 : Int := width / 8
    let pcb : Int := height / rp * w8
    let last : Int := (q.2 % rp : Nat) * (3 * pcb) + 3 * pcb - 1
    let k : Nat := q.2 / rp
    let back : Int := w8 - 1 - (q.1 / 8 : Nat)
    let b : Nat := q.1 % 8
    let upper : Prop := q.2 % (2 * rp) < rp
    let base : Int := last - 2 * back - 2 * w8 * (k / 2 : Nat)
    (0 ≤ p4.1 ∧ p4.1 < width ∧ 0 ≤ p4.2 ∧ p4.2 < height) ∧
    (¬ blocks → (q.1 : Int) = p4.1 ∧ (q.2 : Int) = p4.2) ∧
    (blocks → (q.1 : Int) < width ∧ (q.2 : Int) < height ∧ (q.1 % 16 : Int) = p4.1 % 16 ∧
      (q.1 : Int) / (width / panels) = p4.1 / (width / panels)) ∧
    (last - pcb < redOff ∧ redOff ≤ last) ∧
    (2 * pcb ≤ redOff ∧ redOff < rp * (3 * pcb) ∧ bit ≤ 7) ∧
    (redOff, bit) =
      (match s.cfg.scanpattern with
       | .line | .wzagzig | .vzag | .wzagzig2 => (last - (k * w8 + back), b)
       | .zigzag => if upper then (base, b) else (base - 1, b)
       | .zagzig => if upper then (base - 1, b) else (base, b)
       | .zaggiz => if upper then (base - 1, 7 - b) else (base, b)
       | .zzagg =>
         if upper then (if b ≤ 3 then (base, b) else (base - 1, b - 4))
         else if b ≤ 3 then (base, b + 4) else (base - 1, b)
       | .zziagg =>
         if upper then (if b ≤ 3 then (base, b + 4) else (base - 1, b))
         else if b ≤ 3 then (base, b) else (base - 1, b - 4))

/-- Every coordinate inside the logical panel is placed, and no other is (41_translator.md section 6, property a),
whatever block permutation BLOCKREMAP is (log 10). -/
def Obligations.TranslatorPlacesThePanel : Prop :=
  ∀ (s : State) (x y : Int), s.TranslatorReady →
    (s.inLogicalPanel x y → ∃ redOff bit, s.translate x y = .place redOff bit) ∧
    (¬ s.inLogicalPanel x y → s.translate x y = .drop)

/-- Distinct pixels and channels never share a bit of a bit-plane (41_translator.md section 6, property b), whatever
block permutation BLOCKREMAP is (log 10). -/
def Obligations.TranslatorIsInjective : Prop :=
  ∀ (s : State) (x y x' y' redOff redOff' : Int) (bit bit' c c' : Nat), s.Inv → s.life ≠ .uninit →
    c < 3 → c' < 3 → s.translate x y = .place redOff bit → s.translate x' y' = .place redOff' bit' →
    redOff - (c : Int) * (s.der.pcb.toNat : Int) = redOff' - (c' : Int) * (s.der.pcb.toNat : Int) → bit = bit' →
    x = x' ∧ y = y' ∧ c = c'

/-- Every bit of a bit-plane belongs to a channel of a pixel of the logical panel (41_translator.md section 6,
property c), whatever block permutation BLOCKREMAP is (log 10). -/
def Obligations.TranslatorIsOnto : Prop :=
  ∀ (s : State) (off : Int) (bit : Nat), s.TranslatorReady → 0 ≤ off → off < (s.der.bufsize.toNat : Int) → bit ≤ 7 →
    ∃ (x y redOff : Int) (c : Nat), c < 3 ∧ s.inLogicalPanel x y ∧ s.translate x y = .place redOff bit ∧
      redOff - (c : Int) * (s.der.pcb.toNat : Int) = off

/-! ## Frame-buffer commands -/

/-- The refusals and the silent drop of a pixel write, in the order of its checks (42_framebuffer.md section 1,
60_exceptions.md section 1). -/
def Obligations.PixelWriteRefusals : Prop :=
  ∀ (s : State) (x y : Int) (r g b c : Nat),
    (s.life = .uninit →
      exec (.setpixel x y r g b) s = .next (s.refuse .notinit) ∧
      exec (.setpixel565 x y c) s = .next (s.refuse .notinit)) ∧
    (s.life ≠ .uninit → s.precondOk = false →
      exec (.setpixel x y r g b) s = .next (s.refuse .precond) ∧
      exec (.setpixel565 x y c) s = .next (s.refuse .precond)) ∧
    (s.life ≠ .uninit → s.translate x y = .drop →
      exec (.setpixel x y r g b) s = .next s ∧ exec (.setpixel565 x y c) s = .next s)

/-- SETPIXEL completes (42_framebuffer.md section 1, 41_translator.md section 5): its first step, and 3 * COLORDEPTH byte
steps in the order plane rising, red, green, blue inside a plane. After `n` of them the first `n` lanes hold the bit of
the pixel's wire value, the other seven bits of those bytes and every other byte of FB are as they were, and nothing
else has changed. -/
def Obligations.SetpixelWritesEveryLane : Prop :=
  ∀ (s : State) (x y redOff : Int) (r g b bit : Nat), s.Inv → s.life ≠ .uninit →
    s.translate x y = .place redOff bit →
    ∃ t1, exec (.setpixel x y r g b) s = .next t1 ∧ ∀ n, n ≤ 3 * s.cfg.colordepth.toNat →
      ∃ t, t1.hostByteSteps n = .next t ∧
      t = { s with
        fb := t.fb
        hostOp := if n < 3 * s.cfg.colordepth.toNat then
            .scatter s.editBase redOff bit (s.wireValues ⟨r, g, b⟩).red (s.wireValues ⟨r, g, b⟩).green
              (s.wireValues ⟨r, g, b⟩).blue n
          else .ready } ∧
      (∀ p c, 3 * p + c < n → c < 3 →
        ∃ old v, s.fb.read (s.laneAddr s.editBase redOff p c) = some old ∧
          t.fb.read (s.laneAddr s.editBase redOff p c) = some v ∧
          v.getLsbD bit = ((s.wireValues ⟨r, g, b⟩).get c).testBit p ∧
          ∀ j, j < 8 → j ≠ bit → v.getLsbD j = old.getLsbD j) ∧
      (∀ a : Int, (∀ p c, 3 * p + c < n → c < 3 → a ≠ s.laneAddr s.editBase redOff p c) →
        t.fb.read a = s.fb.read a)

/-- The round trip of 41_translator.md section 5: after SETPIXEL the bits of the pixel's channel, weighted 2^p, sum to
the wire value. -/
def Obligations.PixelRoundTrip : Prop :=
  ∀ (s t1 t : State) (x y redOff : Int) (r g b bit c : Nat), s.Inv → s.life ≠ .uninit →
    r ≤ 255 → g ≤ 255 → b ≤ 255 → c < 3 →
    s.translate x y = .place redOff bit → exec (.setpixel x y r g b) s = .next t1 →
    t1.hostByteSteps (3 * s.cfg.colordepth.toNat) = .next t →
    t.pixelValue s.editBase redOff bit c = (s.wireValues ⟨r, g, b⟩).get c

/-- R141: SETPIXEL565 completes as SETPIXEL of the expanded colour. -/
def Obligations.Setpixel565ExpandsTheColour : Prop :=
  (∀ X Y C : BitVec 16,
    decode (0x09#8 ++ X ++ Y ++ C ++ 0#8 : BitVec 64) = .ok (.setpixel565 X.toInt Y.toInt C.toNat)) ∧
  ∀ (s : State) (x y : Int) (c : Nat),
    exec (.setpixel565 x y c) s =
      exec (.setpixel x y (expand565 c).red (expand565 c).green (expand565 c).blue) s ∧
    ∀ (redOff : Int) (bit : Nat), s.life ≠ .uninit → 1 ≤ s.cfg.colordepth.toNat →
      s.translate x y = .place redOff bit →
      exec (.setpixel565 x y c) s = .next { s with
        hostOp := .scatter s.editBase redOff bit (s.wireValues (expand565 c)).red
          (s.wireValues (expand565 c)).green (s.wireValues (expand565 c)).blue 0 }

/-- R143: GETPIXEL, with its zero field 0, responds 0 in every state and changes nothing else. -/
def Obligations.GetpixelRespondsZero : Prop :=
  (∀ (X Y : BitVec 16) (Z : BitVec 24), decode (0x0A#8 ++ X ++ Y ++ Z : BitVec 64) =
    if Z = 0#24 then .ok (.getpixel X.toInt Y.toInt) else .illegal .nonzeroZero) ∧
  ∀ (s : State) (x y : Int), exec (.getpixel x y) s = .next { s with trace := s.trace ++ [.resp 0#32] }

/-- R144: CLEAR completes in FBSIZE byte steps, addresses rising: after `n` of them the first `n` bytes of the buffer that
plays the role are 0, every other byte is as it was, and nothing else has changed; in UNINIT it is refused. -/
def Obligations.ClearZeroesTheBuffer : Prop :=
  decode 0x0500000000000000#64 = .ok (.clear .edit) ∧ decode 0x0500000000000001#64 = .ok (.clear .display) ∧
  ∀ (s : State) (sel : BufferRole) (base : Nat), base = (if sel = .edit then s.editBase else s.dispBase) →
    (s.life = .uninit → exec (.clear sel) s = .next (s.refuse .notinit)) ∧
    (s.Inv → s.life ≠ .uninit →
      ∃ t1, exec (.clear sel) s = .next t1 ∧ ∀ n, n ≤ s.der.fbsize.toNat →
        ∃ t, t1.hostByteSteps n = .next t ∧
        t = { s with fb := t.fb, hostOp := if n < s.der.fbsize.toNat then .clear base n else .ready } ∧
        ∀ a : Int, t.fb.read a = if (base : Int) ≤ a ∧ a < (base + n : Int) then some 0#8 else s.fb.read a)

/-- R146: with two buffers COPY completes in FBSIZE byte steps, addresses rising: after `n` of them the first `n` bytes of
the destination are those of the source, every other byte is as it was, and nothing else has changed; with one buffer it
has no effect; in UNINIT it is refused. -/
def Obligations.CopyDuplicatesTheBuffer : Prop :=
  decode 0x0600000000000000#64 = .ok (.copy .d2e) ∧ decode 0x0600000000000001#64 = .ok (.copy .e2d) ∧
  ∀ (s : State) (dir : CopyDir) (src dst : Nat),
    src = (if dir = .d2e then s.dispBase else s.editBase) → dst = (if dir = .d2e then s.editBase else s.dispBase) →
    (s.life = .uninit → exec (.copy dir) s = .next (s.refuse .notinit)) ∧
    (s.life ≠ .uninit → s.cfg.dbuf = false → exec (.copy dir) s = .next s) ∧
    (s.Inv → s.life ≠ .uninit → s.cfg.dbuf = true →
      ∃ t1, exec (.copy dir) s = .next t1 ∧ ∀ n, n ≤ s.der.fbsize.toNat →
        ∃ t, t1.hostByteSteps n = .next t ∧
        t = { s with fb := t.fb, hostOp := if n < s.der.fbsize.toNat then .copy src dst n else .ready } ∧
        ∀ a : Int, t.fb.read a =
          if (dst : Int) ≤ a ∧ a < (dst + n : Int) then s.fb.read (a - dst + src) else s.fb.read a)

/-- R145: SWAP flips SEL and, while ARMED, moves CURSOR to the same position of the new display buffer, in one step and
with nothing else changed; with one buffer it has no effect; in UNINIT it is refused. -/
def Obligations.SwapExchangesTheRoles : Prop :=
  decode 0x0400000000000000#64 = .ok .swap ∧ ∀ s : State,
    (s.life = .uninit → exec .swap s = .next (s.refuse .notinit)) ∧
    (s.life ≠ .uninit → s.cfg.dbuf = false → exec .swap s = .next s) ∧
    (s.life = .idle → s.cfg.dbuf = true → exec .swap s = .next { s with sel := !s.sel }) ∧
    (∀ pos, s.life = .armed pos → s.cfg.dbuf = true → exec .swap s = .next { s with
      sel := !s.sel
      life := .armed { pos with
        cursor := BitVec.ofNat 32 ((if s.sel then 0 else s.der.fbsize.toNat)
          + (s.muxEntry pos.row.toNat).offset.toNat + pos.plane.toNat * s.der.bufsize.toNat) } })

/-- Two SWAPs restore the state (95_test_vectors.md section 2.5). -/
def Obligations.SwapTwiceRestores : Prop :=
  ∀ s t u : State, s.Inv → exec .swap s = .next t → exec .swap t = .next u → s.life ≠ .uninit → u = s

/-- Role discipline of pixel writes (42_framebuffer.md section 2): with two buffers, no byte step of a SETPIXEL into the edit buffer changes a byte of the
display buffer. -/
def Obligations.PixelWritesKeepTheDisplay : Prop :=
  ∀ (s t : State) (redOff : Int) (bit qR qG qB k : Nat), s.Inv → s.cfg.dbuf = true → s.life ≠ .uninit →
    s.hostOp = .scatter s.editBase redOff bit qR qG qB k → s.hostByteStep = .next t →
    ∀ a : Int, (s.dispBase : Int) ≤ a → a < (s.dispBase + s.der.fbsize.toNat : Int) → t.fb.read a = s.fb.read a

/-- 20_memory.md section 3: a command in progress finishes in the bounded number of byte steps still left, waiting for nobody, and the port
then accepts the next command. -/
def Obligations.CommandsFinish : Prop :=
  ∀ s : State, s.Inv →
    (s.stepsLeft ≤ max (3 * s.cfg.colordepth.toNat) s.der.fbsize.toNat) ∧
    (∃ t, s.hostByteSteps s.stepsLeft = .next t ∧ t.hostOp = .ready) ∧
    (∀ t, s.hostOp ≠ .ready → s.hostByteStep = .next t → t.stepsLeft + 1 = s.stepsLeft)

/-! ## The scheduler and the serial engine -/

/-- R161: ENABLE in IDLE clears the used address lines, creates the refresh position at its start and arms the timer,
and nothing else changes; it is refused in UNINIT and in ARMED. -/
def Obligations.EnableArms : Prop :=
  decode 0x0200000000000000#64 = .ok .enable ∧ ∀ s : State,
    (s.life = .uninit → exec .enable s = .next (s.refuse .notinit)) ∧
    (∀ pos, s.life = .armed pos → exec .enable s = .next (s.refuse .badstate)) ∧
    (s.life = .idle → s.cfg.muxbits.toNat ≤ 5 → exec .enable s = .next { s with
      gpo := s.gpo &&& ~~~(BitVec.ofNat 7 (2 ^ s.cfg.muxbits.toNat - 1))
      life := .armed { row := 0#5, plane := 0#3, cursor := BitVec.ofNat 32 (s.dispBase + (s.muxEntry 0).offset.toNat) }
      tarmed := true
      tcount := s.der.baseticks
      trace := s.trace ++ [.gpoClr (BitVec.ofNat 7 (2 ^ s.cfg.muxbits.toNat - 1)), .timerArm s.der.baseticks] })

/-- R162: DISABLE blanks, detaches the timer, discards the refresh position and goes to IDLE, from ARMED and from IDLE;
a transfer in flight goes on; it is refused in UNINIT. -/
def Obligations.DisableBlanks : Prop :=
  decode 0x0300000000000000#64 = .ok .disable ∧ ∀ s : State,
    (s.life = .uninit → exec .disable s = .next (s.refuse .notinit)) ∧
    (s.life ≠ .uninit → exec .disable s = .next { s with
      gpo := s.gpo &&& ~~~0x40#7
      life := .idle
      tarmed := false
      trace := s.trace ++ [.gpoClr 0x40#7, .timerDetach] })

/-- The seven steps of a TICK that finds TXBUSY = 0 (43_scheduler.md section 3): their trace in order, the advance of the
refresh position, and the timer count of the new bit-plane; nothing else changes. First, a TICK that finds TXBUSY = 1 is
the fault TimingViolation (43_scheduler.md section 5); that the run ends there is the model's reading (log 8). -/
def Obligations.TickSevenSteps : Prop :=
  (∀ (s : State) (pos : RefreshPos), s.life = .armed pos → s.tarmed = true → s.tx.busy = true →
    s.schedStep = .fault .timingViolation) ∧
  ∀ (s : State) (pos new : RefreshPos) (e : MuxEntry), s.life = .armed pos → s.tarmed = true → s.tx.busy = false →
    e = s.muxEntry pos.row.toNat →
    new = (if pos.plane.toNat + 1 = s.cfg.colordepth.toNat then
        { row := BitVec.ofNat 5 ((pos.row.toNat + 1) % s.der.rowpattern.toNat)
          plane := 0#3
          cursor := BitVec.ofNat 32
            (s.dispBase + (s.muxEntry ((pos.row.toNat + 1) % s.der.rowpattern.toNat)).offset.toNat) }
      else { pos with
        plane := BitVec.ofNat 3 (pos.plane.toNat + 1)
        cursor := BitVec.ofNat 32 (pos.cursor.toNat + s.der.bufsize.toNat) }) →
    s.schedStep = .next { s with
      life := .armed new
      gpo := ((if pos.plane = 0#3 then
          (match e.cmd with
            | .set => s.gpo &&& ~~~0x40#7 ||| e.mask
            | .clr => s.gpo &&& ~~~0x40#7 &&& ~~~e.mask)
        else s.gpo &&& ~~~0x40#7) ||| 0x20#7) &&& ~~~0x20#7 ||| 0x40#7
      tx := { busy := true, addr := new.cursor, len := s.der.sbs, pos := 0 }
      tarmed := true
      tcount := BitVec.ofNat 32 (s.der.baseticks.toNat * 2 ^ new.plane.toNat)
      trace := s.trace ++ [.gpoClr 0x40#7] ++
        (if pos.plane = 0#3 then
          [match e.cmd with
            | .set => TraceEvent.gpoSet e.mask
            | .clr => TraceEvent.gpoClr e.mask]
        else []) ++
        [.gpoSet 0x20#7, .gpoClr 0x20#7, .gpoSet 0x40#7, .txStart new.cursor s.der.sbs,
          .timerArm (BitVec.ofNat 32 (s.der.baseticks.toNat * 2 ^ new.plane.toNat))] }

/-- A timer expiry that finds STATE not ARMED or TARMED 0 is ignored (43_scheduler.md section 3). -/
def Obligations.TickIgnoredWhenNotArmed : Prop :=
  ∀ s : State, s.life.isArmed = false ∨ s.tarmed = false → s.schedStep = .next s

/-- A step that takes a TICK while TXBUSY = 1 is the fault TimingViolation (60_exceptions.md section 1). That the run ends
there is the model's reading (log 8). -/
def Obligations.BusyTickIsViolation : Prop :=
  ∀ (s : State) (pos : RefreshPos), s.nextTurn = .sched → s.life = .armed pos → s.tarmed = true → s.tx.busy = true →
    step s = .fault .timingViolation

/-- The refresh position visits the pairs (ROW, PLANE) with PLANE fastest and ROW in MUXSEQ order, cyclically: from the
start position, `n` TICKs lead to row n div COLORDEPTH (mod ROWPATTERN) and plane n mod COLORDEPTH (43_scheduler.md
section 3), and the trace holds `n` TICKs more (log 21). -/
def Obligations.TicksWalkRowsAndPlanes : Prop :=
  ∀ (s : State) (pos : RefreshPos) (n : Nat), s.Inv → s.life = .armed pos → pos.row = 0#5 → pos.plane = 0#3 →
    ∃ p, (s.ticks n).life = .armed p ∧ p.row.toNat = n / s.cfg.colordepth.toNat % s.der.rowpattern.toNat ∧
      p.plane.toNat = n % s.cfg.colordepth.toNat ∧ tickCount (s.ticks n).trace = tickCount s.trace + n

/-- One pass of ROWPATTERN * COLORDEPTH TICKs, from any position, arms the timer with
ROWPATTERN * BASETICKS * (2^COLORDEPTH - 1) show-ticks in total (43_scheduler.md section 3). -/
def Obligations.PassArmsTheWholeImage : Prop :=
  ∀ (s : State) (pos : RefreshPos), s.Inv → s.life = .armed pos →
    armedTotal (s.ticks (s.der.rowpattern.toNat * s.cfg.colordepth.toNat)).trace =
      armedTotal s.trace + s.der.rowpattern.toNat * s.der.baseticks.toNat * (2 ^ s.cfg.colordepth.toNat - 1)

/-- 43_scheduler.md section 5: with nothing interleaved, the engine sends the bytes still to send in rising address order, then completes;
the TX steps change the engine and the trace only. -/
def Obligations.TransferSendsItsBytes : Prop :=
  ∀ s : State, s.tx.busy = true → s.tx.pos.toNat ≤ s.tx.len.toNat →
    s.tx.addr.toNat + s.tx.len.toNat ≤ s.fb.size →
    s.txSteps (s.tx.len.toNat - s.tx.pos.toNat + 1) = .next { s with
      tx := { s.tx with busy := false, pos := s.tx.len }
      trace := s.trace ++
        (List.range (s.tx.len.toNat - s.tx.pos.toNat)).map
          (fun i => TraceEvent.txByte (s.fb.byteAt (s.tx.addr.toNat + s.tx.pos.toNat + i))) ++ [.txDone] }

/-! ## The whole machine -/

/-- What reset leaves, for every register the spec gives a value (10_state.md section 9). -/
def Obligations.ResetValues : Prop :=
  State.reset.life = .uninit ∧ State.reset.refused = false ∧ State.reset.errcode = .none ∧
  State.reset.cfg = {
    width := 0, height := 0, muxbits := 0, colordepth := 8, dbuf := false, panels := 1,
    rotate := false, flip := false, colororder := .rgb, scanpattern := .line, blockpattern := .abcd,
    coloroffset := 0, brightness := 255, fps := 0, bushz := 0 } ∧
  State.reset.sel = false ∧ State.reset.gpo = 0 ∧ (∀ a : Int, State.reset.fb.read a = none) ∧
  State.reset.tx = { busy := false, addr := 0, len := 0, pos := 0 } ∧
  State.reset.tarmed = false ∧ State.reset.tcount = 0 ∧ State.reset.trace = []

/-- The reset event puts every piece of the block's state at the value State.reset gives it (70_reset_and_hazards.md
section 1). Of what it states, the derived registers at 0 and the empty tables MUXSEQ and ROWOFF, which the spec leaves
unspecified, are the model's choice (log 6, log 7), and so is that the inputs not yet consumed, the parameters and the
counters stay (log 5, log 11). -/
def Obligations.ResetEventResets : Prop :=
  ∀ s : State, s.nextTurn = .reset → step s = .next { State.reset with
    params := s.params, fb := { size := 0, gen := s.fb.gen, cells := [] }, port := s.port,
    schedule := s.schedule.tail, turn := s.turn + 1 }

/-- The invariant holds at reset. -/
def Obligations.InvAtReset : Prop := State.reset.Inv ∧ State.reset.LinesInv

/-- Every step keeps the invariant (10_state.md sections 4 and 10, 20_memory.md section 2): canonical memory, legal
registers, the derived registers and tables INIT fixed, the refresh position inside the display buffer, the transfer and
the command in progress inside FB. -/
def Obligations.StepKeepsInv : Prop :=
  ∀ s t : State, s.Inv → step s = .next t → t.Inv

/-- Every step keeps the address lines on the Gray-code walk (43_scheduler.md section 4), latch low and the panel blank
outside ARMED. -/
def Obligations.StepKeepsLines : Prop :=
  ∀ s t : State, s.Inv → s.LinesInv → step s = .next t → t.LinesInv

/-- Under the invariant the only fault of a step is the timing violation of a TICK that finds the transfer unfinished: no
rule produces an FB address where no byte exists (20_memory.md section 2). -/
def Obligations.OnlyTimingViolationFaults : Prop :=
  ∀ (s : State) (r : Fault), s.Inv → step s = .fault r →
    r = .timingViolation ∧ s.nextTurn = .sched ∧ s.violates = true

/-- 43_scheduler.md section 1: STATE changes only by reset, INIT (UNINIT to IDLE), ENABLE (IDLE to ARMED) and DISABLE (ARMED to IDLE). -/
def Obligations.StateTransitions : Prop :=
  ∀ s t : State, step s = .next t → t.life.code ≠ s.life.code →
    (s.nextTurn = .reset ∧ t.life = .uninit) ∨
    (s.command = some .init ∧ s.life = .uninit ∧ t.life = .idle) ∨
    (s.command = some .enable ∧ s.life = .idle ∧ t.life.isArmed = true) ∨
    (s.command = some .disable ∧ s.life.isArmed = true ∧ t.life = .idle)

/-- REFUSED is never cleared except by reset (10_state.md section 2). -/
def Obligations.RefusedIsSticky : Prop :=
  ∀ s t : State, s.nextTurn ≠ .reset → step s = .next t → s.refused = true → t.refused = true

/-- 60_exceptions.md section 1: a command that is refused does exactly `REFUSED <- 1; ERRCODE <- code`, and one that is not refused leaves both
as they were. -/
def Obligations.RefusalDoesNothingElse : Prop :=
  ∀ (i : Instr) (s t : State), exec i s = .next t →
    (∃ c, c ≠ .none ∧ t = { s with refused := true, errcode := c }) ∨
      (t.refused = s.refused ∧ t.errcode = s.errcode)

/-- Outside UNINIT no step but reset changes the geometry, the sizes, the tables or the extent of FB; while ARMED none
changes the translator settings (10_state.md section 3, 20_memory.md section 4). -/
def Obligations.LockedConfiguration : Prop :=
  ∀ s t : State, s.nextTurn ≠ .reset → step s = .next t →
    (s.life ≠ .uninit →
      t.cfg.width = s.cfg.width ∧ t.cfg.height = s.cfg.height ∧ t.cfg.muxbits = s.cfg.muxbits ∧
      t.cfg.colordepth = s.cfg.colordepth ∧ t.cfg.dbuf = s.cfg.dbuf ∧
      { t.der with baseticks := s.der.baseticks } = s.der ∧ t.muxseq = s.muxseq ∧ t.rowoff = s.rowoff ∧
      t.fb.size = s.fb.size ∧ t.fb.gen = s.fb.gen) ∧
    (s.life.isArmed = true →
      t.cfg.panels = s.cfg.panels ∧ t.cfg.rotate = s.cfg.rotate ∧ t.cfg.flip = s.cfg.flip ∧
      t.cfg.colororder = s.cfg.colororder ∧ t.cfg.scanpattern = s.cfg.scanpattern ∧
      t.cfg.blockpattern = s.cfg.blockpattern ∧ t.cfg.coloroffset = s.cfg.coloroffset)

/-- A step touches at most one byte of FB, the one the command in progress stores to in its next byte step, and only in
a HOST turn: SCHED and TXENG write no byte (20_memory.md section 2, 44_laws.md section 3). -/
def Obligations.OneByteAStep : Prop :=
  ∀ s t : State, s.nextTurn ≠ .reset → s.life ≠ .uninit → step s = .next t →
    ∀ a : Int, (s.nextTurn = .host → s.storeAddr ≠ some a) → t.fb.read a = s.fb.read a

/-- BRIGHTNESS has no effect (43_scheduler.md section 3): every step of every agent, but the SETBRIGHTNESS command, does the same to the rest
of the state and the trace whatever it holds. -/
def Obligations.BrightnessHasNoEffect : Prop :=
  ∀ (s : State) (b : BitVec 8),
    (∀ i : Instr, (∀ v, i ≠ .setbrightness v) →
      exec i (s.withBrightness b) = mapNext (State.withBrightness b) (exec i s)) ∧
    (s.withBrightness b).schedStep = mapNext (State.withBrightness b) s.schedStep ∧
    (s.withBrightness b).txStep = mapNext (State.withBrightness b) s.txStep ∧
    (s.withBrightness b).hostByteStep = mapNext (State.withBrightness b) s.hostByteStep

/-- What software and the panel see: the status wires show STATE, REFUSED, ERRCODE, TXBUSY and SEL by their numbers
(10_state.md sections 1, 2 and 7, 60_exceptions.md section 1; the enumerations are the model's reading, log 14), and a byte
leaves on the serial wire bit 7 first, the bytes of a transfer in the order they are sent (20_memory.md section 2,
43_scheduler.md section 5; that the trace holds bytes and the bits stand beside it is the model's reading, log 20). -/
def Obligations.WiresShowTheRegisters : Prop :=
  (∀ s : State,
    (s.life = .uninit → s.wires.state = 0#2) ∧ (s.life = .idle → s.wires.state = 1#2) ∧
    (∀ pos, s.life = .armed pos → s.wires.state = 2#2) ∧
    s.wires.refused = (if s.refused then 1#1 else 0#1) ∧ s.wires.txbusy = (if s.tx.busy then 1#1 else 0#1) ∧
    s.wires.sel = (if s.sel then 1#1 else 0#1) ∧
    s.wires.errcode =
      (match s.errcode with
       | .none => 0#4
       | .illegal => 1#4
       | .badvalue => 2#4
       | .locked => 3#4
       | .notinit => 4#4
       | .badgeom => 5#4
       | .nomem => 6#4
       | .badstate => 7#4
       | .precond => 8#4)) ∧
  (∀ v : Byte, wireBits v = [v.getLsbD 7, v.getLsbD 6, v.getLsbD 5, v.getLsbD 4] ++
    [v.getLsbD 3, v.getLsbD 2, v.getLsbD 1, v.getLsbD 0]) ∧
  (∀ vs : List Byte, serialBits (vs.map TraceEvent.txByte ++ [.txDone]) = vs.flatMap wireBits)
end

