-- ==== Sys2Proof/Laws/Decode.lean ====
section
/-! SUPPORT. The fields of the six formats: what each field of an encoded word holds, and that a word is put together
again from its fields. -/

namespace Sys2Proof

/-! ### Fields of a concatenation -/

theorem extract_high {n m : Nat} (lo len : Nat) (a : BitVec n) (b : BitVec m) (h : m ≤ lo) :
    (a ++ b).extractLsb' lo len = a.extractLsb' (lo - m) len := by
  ext i hi
  have : ¬ lo + i < m := by omega
  simp [BitVec.getElem_extractLsb', BitVec.getLsbD_append, this, show lo + i - m = lo - m + i by omega]

theorem extract_low {n m : Nat} (lo len : Nat) (a : BitVec n) (b : BitVec m) (h : lo + len ≤ m) :
    (a ++ b).extractLsb' lo len = b.extractLsb' lo len := by
  ext i hi
  have : lo + i < m := by omega
  simp [BitVec.getElem_extractLsb', BitVec.getLsbD_append, this]

theorem extract_all {n : Nat} (a : BitVec n) : a.extractLsb' 0 n = a := by simp

/-- Two adjacent fields of a word, joined. -/
theorem extract_join {w : Nat} (x : BitVec w) (lo hi n m : Nat) (h : hi = lo + m) :
    (x.extractLsb' hi n ++ x.extractLsb' lo m : BitVec (n + m)) = x.extractLsb' lo (n + m) := by
  subst h
  ext i hi
  simp only [BitVec.getElem_append, BitVec.getElem_extractLsb']
  split
  · rfl
  · rw [show lo + m + (i - m) = lo + i by omega]

/-! ### Format Z -/

theorem encodeZ_opc (o : BitVec 8) : wordField (encodeZ o) 56 8 = o := by
  unfold wordField encodeZ
  erw [extract_high _ _ _ _ (by decide), extract_all]

theorem encodeZ_zero (o : BitVec 8) : wordField (encodeZ o) 0 56 = 0#56 := by
  unfold wordField encodeZ
  erw [extract_low _ _ _ _ (by decide), extract_all]

/-! ### Format S -/

theorem encodeS_opc (o : BitVec 8) (s : BitVec 1) : wordField (encodeS o s) 56 8 = o := by
  unfold wordField encodeS
  erw [extract_high _ _ _ _ (by decide), extract_high _ _ _ _ (by decide), extract_all]

theorem encodeS_zero (o : BitVec 8) (s : BitVec 1) : wordField (encodeS o s) 1 55 = 0#55 := by
  unfold wordField encodeS
  erw [extract_high _ _ _ _ (by decide), extract_low _ _ _ _ (by decide), extract_all]

theorem encodeS_s (o : BitVec 8) (s : BitVec 1) : wordField (encodeS o s) 0 1 = s := by
  unfold wordField encodeS
  erw [extract_low _ _ _ _ (by decide), extract_all]

/-! ### Format P -/

theorem encodeP_opc (o : BitVec 8) (x y : BitVec 16) (r g b : BitVec 8) : wordField (encodeP o x y r g b) 56 8 = o := by
  unfold wordField encodeP
  erw [extract_high _ _ _ _ (by decide), extract_high _ _ _ _ (by decide), extract_high _ _ _ _ (by decide), extract_high _ _ _ _ (by decide), extract_high _ _ _ _ (by decide), extract_all]

theorem encodeP_x (o : BitVec 8) (x y : BitVec 16) (r g b : BitVec 8) : wordField (encodeP o x y r g b) 40 16 = x := by
  unfold wordField encodeP
  erw [extract_high _ _ _ _ (by decide), extract_high _ _ _ _ (by decide), extract_high _ _ _ _ (by decide), extract_high _ _ _ _ (by decide), extract_low _ _ _ _ (by decide), extract_all]

theorem encodeP_y (o : BitVec 8) (x y : BitVec 16) (r g b : BitVec 8) : wordField (encodeP o x y r g b) 24 16 = y := by
  unfold wordField encodeP
  erw [extract_high _ _ _ _ (by decide), extract_high _ _ _ _ (by decide), extract_high _ _ _ _ (by decide), extract_low _ _ _ _ (by decide), extract_all]

theorem encodeP_r (o : BitVec 8) (x y : BitVec 16) (r g b : BitVec 8) : wordField (encodeP o x y r g b) 16 8 = r := by
  unfold wordField encodeP
  erw [extract_high _ _ _ _ (by decide), extract_high _ _ _ _ (by decide), extract_low _ _ _ _ (by decide), extract_all]

theorem encodeP_g (o : BitVec 8) (x y : BitVec 16) (r g b : BitVec 8) : wordField (encodeP o x y r g b) 8 8 = g := by
  unfold wordField encodeP
  erw [extract_high _ _ _ _ (by decide), extract_low _ _ _ _ (by decide), extract_all]

theorem encodeP_b (o : BitVec 8) (x y : BitVec 16) (r g b : BitVec 8) : wordField (encodeP o x y r g b) 0 8 = b := by
  unfold wordField encodeP
  erw [extract_low _ _ _ _ (by decide), extract_all]

/-! ### Format H -/

theorem encodeH_opc (o : BitVec 8) (x y c : BitVec 16) : wordField (encodeH o x y c) 56 8 = o := by
  unfold wordField encodeH
  erw [extract_high _ _ _ _ (by decide), extract_high _ _ _ _ (by decide), extract_high _ _ _ _ (by decide), extract_high _ _ _ _ (by decide), extract_all]

theorem encodeH_x (o : BitVec 8) (x y c : BitVec 16) : wordField (encodeH o x y c) 40 16 = x := by
  unfold wordField encodeH
  erw [extract_high _ _ _ _ (by decide), extract_high _ _ _ _ (by decide), extract_high _ _ _ _ (by decide), extract_low _ _ _ _ (by decide), extract_all]

theorem encodeH_y (o : BitVec 8) (x y c : BitVec 16) : wordField (encodeH o x y c) 24 16 = y := by
  unfold wordField encodeH
  erw [extract_high _ _ _ _ (by decide), extract_high _ _ _ _ (by decide), extract_low _ _ _ _ (by decide), extract_all]

theorem encodeH_c (o : BitVec 8) (x y c : BitVec 16) : wordField (encodeH o x y c) 8 16 = c := by
  unfold wordField encodeH
  erw [extract_high _ _ _ _ (by decide), extract_low _ _ _ _ (by decide), extract_all]

theorem encodeH_zero (o : BitVec 8) (x y c : BitVec 16) : wordField (encodeH o x y c) 0 8 = 0#8 := by
  unfold wordField encodeH
  erw [extract_low _ _ _ _ (by decide), extract_all]

/-! ### Format G -/

theorem encodeG_opc (o : BitVec 8) (x y : BitVec 16) : wordField (encodeG o x y) 56 8 = o := by
  unfold wordField encodeG
  erw [extract_high _ _ _ _ (by decide), extract_high _ _ _ _ (by decide), extract_high _ _ _ _ (by decide), extract_all]

theorem encodeG_x (o : BitVec 8) (x y : BitVec 16) : wordField (encodeG o x y) 40 16 = x := by
  unfold wordField encodeG
  erw [extract_high _ _ _ _ (by decide), extract_high _ _ _ _ (by decide), extract_low _ _ _ _ (by decide), extract_all]

theorem encodeG_y (o : BitVec 8) (x y : BitVec 16) : wordField (encodeG o x y) 24 16 = y := by
  unfold wordField encodeG
  erw [extract_high _ _ _ _ (by decide), extract_low _ _ _ _ (by decide), extract_all]

theorem encodeG_zero (o : BitVec 8) (x y : BitVec 16) : wordField (encodeG o x y) 0 24 = 0#24 := by
  unfold wordField encodeG
  erw [extract_low _ _ _ _ (by decide), extract_all]

/-! ### Format W -/

theorem encodeW_opc (reg : BitVec 8) (v : BitVec 32) : wordField (encodeW reg v) 56 8 = 0x10#8 := by
  unfold wordField encodeW
  erw [extract_high _ _ _ _ (by decide), extract_high _ _ _ _ (by decide), extract_high _ _ _ _ (by decide), extract_all]

theorem encodeW_reg (reg : BitVec 8) (v : BitVec 32) : wordField (encodeW reg v) 48 8 = reg := by
  unfold wordField encodeW
  erw [extract_high _ _ _ _ (by decide), extract_high _ _ _ _ (by decide), extract_low _ _ _ _ (by decide), extract_all]

theorem encodeW_zero (reg : BitVec 8) (v : BitVec 32) : wordField (encodeW reg v) 32 16 = 0#16 := by
  unfold wordField encodeW
  erw [extract_high _ _ _ _ (by decide), extract_low _ _ _ _ (by decide), extract_all]

theorem encodeW_value (reg : BitVec 8) (v : BitVec 32) : wordField (encodeW reg v) 0 32 = v := by
  unfold wordField encodeW
  erw [extract_low _ _ _ _ (by decide), extract_all]

/-! ### Operands -/

theorem sext16_sfield {x : Int} (h : coordOk x) : sext16 (sfield x) = x := by
  unfold sext16 sfield
  rw [BitVec.toInt_ofInt]
  exact Int.bmod_eq_of_le (by omega) (by omega)

theorem sfield_sext16 (x : BitVec 16) : sfield (sext16 x) = x := by simp [sfield, sext16]

theorem sext16_coordOk (x : BitVec 16) : coordOk (sext16 x) := by
  unfold sext16
  have h1 := BitVec.le_toInt x
  have h2 := BitVec.toInt_lt (x := x)
  constructor <;> omega

theorem zfield_toNat {n v : Nat} (h : fieldOk n v) : (zfield n v).toNat = v := by
  simp [zfield, Nat.mod_eq_of_lt h]

theorem zfield_of_toNat {n : Nat} (x : BitVec n) : zfield n x.toNat = x := by simp [zfield]

/-! ### Decoding one format -/

theorem needZero_zero {n : Nat} (i : Instr) : needZero (0#n) i = .ok i := by simp [needZero]

theorem needZero_ok {n : Nat} {z : BitVec n} {i j : Instr} (h : needZero z i = .ok j) : z = 0#n ∧ i = j := by
  unfold needZero at h
  split at h
  · rename_i hz; exact ⟨hz, by simpa using h⟩
  · cases h

theorem decodeZ_encodeZ (o : BitVec 8) (i : Instr) : decodeZ (encodeZ o) i = .ok i := by
  rw [decodeZ, encodeZ_zero, needZero_zero]

theorem decodeS_encodeS (o : BitVec 8) (s : BitVec 1) (i j : Instr) :
    decodeS (encodeS o s) i j = .ok (if s = 0#1 then i else j) := by
  rw [decodeS, encodeS_zero, encodeS_s, needZero_zero]

theorem decodeP_encodeP (o : BitVec 8) {x y : Int} {r g b : Nat} (hx : coordOk x) (hy : coordOk y)
    (hr : fieldOk 8 r) (hg : fieldOk 8 g) (hb : fieldOk 8 b) :
    decodeP (encodeP o (sfield x) (sfield y) (zfield 8 r) (zfield 8 g) (zfield 8 b)) =
      .ok (.setpixel x y r g b) := by
  rw [decodeP, encodeP_x, encodeP_y, encodeP_r, encodeP_g, encodeP_b, sext16_sfield hx, sext16_sfield hy,
    zfield_toNat hr, zfield_toNat hg, zfield_toNat hb]

theorem decodeH_encodeH (o : BitVec 8) {x y : Int} {c : Nat} (hx : coordOk x) (hy : coordOk y)
    (hc : fieldOk 16 c) :
    decodeH (encodeH o (sfield x) (sfield y) (zfield 16 c)) = .ok (.setpixel565 x y c) := by
  rw [decodeH, encodeH_zero, encodeH_x, encodeH_y, encodeH_c, sext16_sfield hx, sext16_sfield hy,
    zfield_toNat hc, needZero_zero]

theorem decodeG_encodeG (o : BitVec 8) {x y : Int} (hx : coordOk x) (hy : coordOk y) :
    decodeG (encodeG o (sfield x) (sfield y)) = .ok (.getpixel x y) := by
  rw [decodeG, encodeG_zero, encodeG_x, encodeG_y, sext16_sfield hx, sext16_sfield hy, needZero_zero]

theorem decodeW_encodeW (reg : BitVec 8) {v : Nat} (hv : fieldOk 32 v) {i : Instr}
    (hi : setterOf reg.toNat v = some i) : decodeW (encodeW reg (zfield 32 v)) = .ok i := by
  rw [decodeW, encodeW_reg, encodeW_value, zfield_toNat hv, hi, encodeW_zero]
  exact needZero_zero i

/-! ### A word is put together again from its fields -/

theorem encodeZ_fields {w : Word} (hz : wordField w 0 56 = 0#56) : encodeZ (opcField w) = w := by
  unfold encodeZ opcField
  rw [← hz]
  unfold wordField
  exact (extract_join w 0 56 8 56 rfl).trans (extract_all w)

theorem encodeS_fields {w : Word} (hz : wordField w 1 55 = 0#55) : encodeS (opcField w) (wordField w 0 1) = w := by
  unfold encodeS opcField
  rw [← hz]
  unfold wordField
  rw [extract_join w 1 56 8 55 rfl]
  exact (extract_join w 0 1 63 1 rfl).trans (extract_all w)

theorem encodeP_fields (w : Word) :
    encodeP (opcField w) (wordField w 40 16) (wordField w 24 16) (wordField w 16 8) (wordField w 8 8)
      (wordField w 0 8) = w := by
  unfold encodeP opcField wordField
  rw [extract_join w 40 56 8 16 rfl, extract_join w 24 40 24 16 rfl, extract_join w 16 24 40 8 rfl,
    extract_join w 8 16 48 8 rfl]
  exact (extract_join w 0 8 56 8 rfl).trans (extract_all w)

theorem encodeH_fields {w : Word} (hz : wordField w 0 8 = 0#8) :
    encodeH (opcField w) (wordField w 40 16) (wordField w 24 16) (wordField w 8 16) = w := by
  unfold encodeH
  rw [← hz]
  unfold opcField wordField
  rw [extract_join w 40 56 8 16 rfl, extract_join w 24 40 24 16 rfl, extract_join w 8 24 40 16 rfl]
  exact (extract_join w 0 8 56 8 rfl).trans (extract_all w)

theorem encodeG_fields {w : Word} (hz : wordField w 0 24 = 0#24) :
    encodeG (opcField w) (wordField w 40 16) (wordField w 24 16) = w := by
  unfold encodeG
  rw [← hz]
  unfold opcField wordField
  rw [extract_join w 40 56 8 16 rfl, extract_join w 24 40 24 16 rfl]
  exact (extract_join w 0 24 40 24 rfl).trans (extract_all w)

theorem encodeW_fields {w : Word} (ho : opcField w = 0x10#8) (hz : wordField w 32 16 = 0#16) :
    encodeW (wordField w 48 8) (wordField w 0 32) = w := by
  unfold encodeW
  rw [← hz, ← ho]
  unfold opcField wordField
  rw [extract_join w 48 56 8 8 rfl, extract_join w 32 48 16 16 rfl]
  exact (extract_join w 0 32 32 32 rfl).trans (extract_all w)

end Sys2Proof
end

