-- ==== Sys2Proof/Laws/Memory.lean ====
section
/-! SUPPORT. The laws of the frame-buffer memory: a read after a write, the canonical form every operation keeps, and
what one byte step can do. -/

namespace Sys2Proof.Machine

/-! ### The list of cells -/

theorem cellsGet_set_same (a : Nat) (v : Byte) (cs : List Host.Cell) :
    cellsGet a (cellsSet a v cs) = some v := by
  induction cs with
  | nil => simp [cellsSet, cellsGet]
  | cons c cs ih =>
    unfold cellsSet
    split
    · simp [cellsGet]
    · split
      · simp [cellsGet]
      · have hne : c.1 ≠ a := fun h => by simp_all
        simp [cellsGet, hne, ih]

theorem cellsGet_set_other {a b : Nat} (h : b ≠ a) (v : Byte) (cs : List Host.Cell) :
    cellsGet b (cellsSet a v cs) = cellsGet b cs := by
  induction cs with
  | nil => simp [cellsSet, cellsGet, Ne.symm h]
  | cons c cs ih =>
    unfold cellsSet
    split
    · simp [cellsGet, Ne.symm h]
    · split
      · rename_i _ hc
        have : c.1 ≠ b := fun hb => h (by omega)
        simp [cellsGet, Ne.symm h, this]
      · simp [cellsGet, ih]

theorem cellsWf_mono {size lo lo' : Nat} (h : lo' ≤ lo) {cs : List Host.Cell} (hw : cellsWf size lo cs = true) :
    cellsWf size lo' cs = true := by
  cases cs with
  | nil => rfl
  | cons c cs =>
    simp only [cellsWf, Bool.and_eq_true, decide_eq_true_eq] at hw ⊢
    exact ⟨⟨by omega, hw.1.2⟩, hw.2⟩

theorem cellsWf_set {size a : Nat} (v : Byte) (ha : a < size) :
    ∀ {lo : Nat} {cs : List Host.Cell}, lo ≤ a → cellsWf size lo cs = true →
      cellsWf size lo (cellsSet a v cs) = true := by
  intro lo cs
  induction cs generalizing lo with
  | nil => intro hl _; simp [cellsSet, cellsWf, hl, ha]
  | cons c cs ih =>
    intro hl hw
    simp only [cellsWf, Bool.and_eq_true, decide_eq_true_eq] at hw
    unfold cellsSet
    split
    · simp only [cellsWf, Bool.and_eq_true, decide_eq_true_eq]
      exact ⟨⟨hl, ha⟩, ⟨by omega, hw.1.2⟩, hw.2⟩
    · split
      · rename_i _ hc
        simp only [cellsWf, Bool.and_eq_true, decide_eq_true_eq]
        exact ⟨⟨hl, ha⟩, hc ▸ hw.2⟩
      · simp only [cellsWf, Bool.and_eq_true, decide_eq_true_eq]
        exact ⟨⟨hw.1.1, hw.1.2⟩, ih (by omega) hw.2⟩

theorem cellsGet_below {size lo : Nat} {cs : List Host.Cell} (hw : cellsWf size lo cs = true) {a : Nat}
    (ha : a < lo) : cellsGet a cs = none := by
  induction cs generalizing lo with
  | nil => rfl
  | cons c cs ih =>
    simp only [cellsWf, Bool.and_eq_true, decide_eq_true_eq] at hw
    have : c.1 ≠ a := by omega
    simp only [cellsGet, this, if_false]
    exact ih hw.2 (by omega)

/-- Lists in canonical form that list the same bytes are the same list. -/
theorem cells_ext {size lo : Nat} {cs ds : List Host.Cell} (hc : cellsWf size lo cs = true)
    (hd : cellsWf size lo ds = true) (h : ∀ a, cellsGet a cs = cellsGet a ds) : cs = ds := by
  induction cs generalizing lo ds with
  | nil =>
    cases ds with
    | nil => rfl
    | cons d ds => have := h d.1; simp [cellsGet] at this
  | cons c cs ih =>
    cases ds with
    | nil => have := h c.1; simp [cellsGet] at this
    | cons d ds =>
      simp only [cellsWf, Bool.and_eq_true, decide_eq_true_eq] at hc hd
      have key : c.1 = d.1 := by
        rcases Nat.lt_trichotomy c.1 d.1 with hlt | heq | hgt
        · have h1 := h c.1
          have hne : d.1 ≠ c.1 := by omega
          simp [cellsGet, hne, cellsGet_below hd.2 (show c.1 < d.1 + 1 by omega)] at h1
        · exact heq
        · have h1 := h d.1
          have hne : c.1 ≠ d.1 := by omega
          simp [cellsGet, hne, cellsGet_below hc.2 (show d.1 < c.1 + 1 by omega)] at h1
      have hv : c.2 = d.2 := by have h1 := h c.1; simpa [cellsGet, key] using h1
      have htail : cs = ds := by
        refine ih hc.2 (key ▸ hd.2) fun a => ?_
        by_cases ha : c.1 = a
        · rw [cellsGet_below hc.2 (by omega), cellsGet_below hd.2 (by omega)]
        · have h1 := h a
          simpa [cellsGet, ha, key ▸ ha] using h1
      rw [htail, Prod.ext key hv]

/-! ### Reads and writes -/

theorem Memory.read_eq_some {m : Memory} {a : Int} (h0 : 0 ≤ a) (h1 : a < (m.size : Int)) :
    m.read a = some (m.byteAt a.toNat) := by simp [Memory.read, h0, h1]

theorem Memory.read_isSome (m : Memory) (a : Int) : (m.read a).isSome = true ↔ 0 ≤ a ∧ a < (m.size : Int) := by
  unfold Memory.read; split <;> simp_all

theorem Memory.write_eq_some {m : Memory} {a : Int} (h0 : 0 ≤ a) (h1 : a < (m.size : Int)) (v : Byte) :
    m.write a v = some { m with cells := cellsSet a.toNat v m.cells } := by simp [Memory.write, h0, h1]

/-- Everything a write can do. -/
theorem Memory.write_cases {m m' : Memory} {a : Int} {v : Byte} (h : m.write a v = some m') :
    0 ≤ a ∧ a < (m.size : Int) ∧ m' = { m with cells := cellsSet a.toNat v m.cells } := by
  unfold Memory.write at h
  split at h
  · rename_i hr; exact ⟨hr.1, hr.2, by simpa using h.symm⟩
  · cases h

theorem Memory.write_size {m m' : Memory} {a : Int} {v : Byte} (h : m.write a v = some m') : m'.size = m.size := by
  obtain ⟨-, -, rfl⟩ := Memory.write_cases h; rfl

theorem Memory.write_gen {m m' : Memory} {a : Int} {v : Byte} (h : m.write a v = some m') : m'.gen = m.gen := by
  obtain ⟨-, -, rfl⟩ := Memory.write_cases h; rfl

/-- A read after a write to the same address gives the byte written. -/
theorem Memory.read_write_same {m m' : Memory} {a : Int} {v : Byte} (h : m.write a v = some m') :
    m'.read a = some v := by
  obtain ⟨h0, h1, rfl⟩ := Memory.write_cases h
  simp [Memory.read, h0, h1, Memory.byteAt, cellsGet_set_same]

/-- A write leaves every other address alone. -/
theorem Memory.read_write_other {m m' : Memory} {a b : Int} {v : Byte} (h : m.write a v = some m') (hb : b ≠ a) :
    m'.read b = m.read b := by
  obtain ⟨h0, h1, rfl⟩ := Memory.write_cases h
  unfold Memory.read
  by_cases hr : 0 ≤ b ∧ b < (m.size : Int)
  · have hne : b.toNat ≠ a.toNat := by omega
    simp [hr, Memory.byteAt, cellsGet_set_other hne]
  · simp [hr]

/-! ### The canonical form -/

theorem Memory.write_wf {m m' : Memory} {a : Int} {v : Byte} (h : m.write a v = some m') (hw : m.wf = true) :
    m'.wf = true := by
  obtain ⟨h0, h1, rfl⟩ := Memory.write_cases h
  have ha : a.toNat < m.size := by omega
  exact cellsWf_set v ha (Nat.zero_le _) hw

theorem Memory.create_wf (m : Memory) (n : Nat) : (m.create n).wf = true := rfl

theorem Memory.discard_wf (m : Memory) : m.discard.wf = true := rfl

/-- Memories in canonical form of one size and generation that list the same bytes are equal data. -/
theorem Memory.ext_of_wf {m m' : Memory} (hw : m.wf = true) (hw' : m'.wf = true) (hs : m.size = m'.size)
    (hg : m.gen = m'.gen) (h : ∀ a, cellsGet a m.cells = cellsGet a m'.cells) : m = m' := by
  cases m; cases m'
  simp only [Memory.wf] at *
  subst hs hg
  simp [cells_ext hw hw' h]

/-! ### One byte step -/

/-- Everything a byte step can do: it answers a next state in which FB holds the changed byte and the command in
progress is `op`, and nothing else differs. -/
theorem State.byteStep_cases {s t : State} {src dst : Int} {f : Byte → Byte} {op : HostOp}
    (h : s.byteStep src dst f op = .next t) :
    ∃ old fb, s.fb.read src = some old ∧ s.fb.write dst (f old) = some fb ∧
      t = { s with fb := fb, hostOp := op } := by
  unfold State.byteStep at h
  split at h
  · cases h
  · split at h
    · cases h
    · rename_i old hr _ fb hw
      exact ⟨old, fb, hr, hw, by simpa using h.symm⟩

/-- A byte step between existing addresses answers a next state. -/
theorem State.byteStep_next {s : State} {src dst : Int} (f : Byte → Byte) (op : HostOp)
    (hs : 0 ≤ src ∧ src < (s.fb.size : Int)) (hd : 0 ≤ dst ∧ dst < (s.fb.size : Int)) :
    s.byteStep src dst f op = .next { s with
      fb := { s.fb with cells := cellsSet dst.toNat (f (s.fb.byteAt src.toNat)) s.fb.cells }
      hostOp := op } := by
  simp [State.byteStep, Memory.read_eq_some hs.1 hs.2, Memory.write_eq_some hd.1 hd.2]

/-- A byte step never refuses, and its only fault is the missing byte. -/
theorem State.byteStep_fault {s : State} {src dst : Int} {f : Byte → Byte} {op : HostOp} {r : Fault}
    (h : s.byteStep src dst f op = .fault r) : r = .noSuchByte := by
  unfold State.byteStep at h
  split at h
  · simpa using h.symm
  · split at h
    · simpa using h.symm
    · cases h

end Sys2Proof.Machine
end

