-- ==== Sys2Proof/Laws/HostSteps.lean ====
section
/-! SUPPORT. Once over, everything the byte steps of a command in progress can do (20_memory.md R45, R46, R48). -/

namespace Sys2Proof.Machine

/-- Everything one byte step can do: it changes the memory at the address it stores to, and the command in progress. -/
theorem hostByteStep_cases {s t : State} (h : s.hostByteStep = .next t) :
    t = s ∧ s.hostOp = .ready ∨ s.hostOp ≠ .ready ∧ ∃ fb op, t = { s with fb := fb, hostOp := op } ∧ fb.size = s.fb.size ∧ fb.gen = s.fb.gen ∧
      (s.fb.wf = true → fb.wf = true) ∧ (∀ a, s.storeAddr ≠ some a → fb.read a = s.fb.read a) := by
  have key : ∀ src dst f op, s.byteStep src dst f op = .next t → s.storeAddr = some dst → ∃ fb op, t = { s with fb := fb, hostOp := op } ∧ fb.size = s.fb.size ∧ fb.gen = s.fb.gen ∧
      (s.fb.wf = true → fb.wf = true) ∧ (∀ a, s.storeAddr ≠ some a → fb.read a = s.fb.read a) := by
    intro src dst f op h hd
    obtain ⟨old, fb, _, hw, rfl⟩ := State.byteStep_cases h
    exact ⟨fb, op, rfl, Memory.write_size hw, Memory.write_gen hw, Memory.write_wf hw, fun a ha => Memory.read_write_other hw (by rintro rfl; exact ha hd)⟩
  unfold State.hostByteStep at h
  cases ho : s.hostOp with
  | ready => rw [ho] at h; injection h with h; exact .inl ⟨h.symm, rfl⟩
  | scatter base redOff bit qR qG qB k =>
    rw [ho] at h
    exact .inr ⟨by simp, key _ _ _ _ h (by simp only [State.storeAddr, ho])⟩
  | clear base k =>
    rw [ho] at h
    exact .inr ⟨by simp, key _ _ _ _ h (by simp only [State.storeAddr, ho])⟩
  | copy src dst k =>
    rw [ho] at h
    exact .inr ⟨by simp, key _ _ _ _ h (by simp only [State.storeAddr, ho])⟩

/-- A command of `N` byte steps whose k-th writes `f k` of the byte at `src k` to `dst k`, all in range, no step reading
what an earlier one wrote: what its next `n` steps leave. -/
theorem hostByteSteps_run {cfg : ConfigRegs} {der : DerivedRegs} {size N : Nat} {op : Nat → HostOp}
    {src dst : Nat → Int} {f : Nat → Byte → Byte}
    (hstep : ∀ s : State, s.cfg = cfg → s.der = der → ∀ k, k < N → s.hostOp = op k →
      s.hostByteStep = s.byteStep (src k) (dst k) (f k) (afterStep k N (op (k + 1))))
    (hsrc : ∀ k, k < N → 0 ≤ src k ∧ src k < (size : Int)) (hdst : ∀ k, k < N → 0 ≤ dst k ∧ dst k < (size : Int))
    (hinj : ∀ i j, i < j → j < N → dst i ≠ dst j) (hsd : ∀ i j, i < j → j < N → src j ≠ dst i) :
    ∀ (n k : Nat) (s : State), k + n ≤ N → s.cfg = cfg → s.der = der → s.fb.size = size →
      (s.hostOp = if k < N then op k else .ready) →
    ∃ t, s.hostByteSteps n = .next t ∧ t = { s with fb := t.fb, hostOp := if k + n < N then op (k + n) else .ready } ∧
      (∀ j, k ≤ j → j < k + n → t.fb.read (dst j) = (s.fb.read (src j)).map (f j)) ∧
      (∀ a : Int, (∀ j, k ≤ j → j < k + n → a ≠ dst j) → t.fb.read a = s.fb.read a) := by
  intro n
  induction n with
  | zero =>
    intro k s _ _ _ _ ho
    exact ⟨s, rfl, by rw [Nat.add_zero, ← ho], by omega, fun _ _ => rfl⟩
  | succ n ih =>
    intro k s h1 hc hd hz ho
    have h2 : k < N := by omega
    rw [if_pos h2] at ho
    have hs := hsrc k h2
    have hdt := hdst k h2
    rw [← hz] at hs hdt
    have e := hstep s hc hd k h2 ho
    have hr := Memory.read_eq_some hs.1 hs.2
    have hw := Memory.write_eq_some hdt.1 hdt.2 (f k (s.fb.byteAt (src k).toNat))
    rw [State.byteStep_next _ _ hs hdt] at e
    simp only [State.hostByteSteps, e]
    generalize hfb : ({ s.fb with cells := cellsSet (dst k).toNat (f k (s.fb.byteAt (src k).toNat)) s.fb.cells } : Memory) = m at *
    have rs := Memory.read_write_same hw
    have ro : ∀ b, b ≠ dst k → m.read b = s.fb.read b := fun b hb => Memory.read_write_other hw hb
    have msz : m.size = size := by rw [← hfb]; exact hz
    obtain ⟨t, t1, t2, t5, t6⟩ := ih (k + 1) { s with fb := m, hostOp := afterStep k N (op (k + 1)) } (by omega) hc hd msz rfl
    refine ⟨t, t1, by rw [t2, show k + 1 + n = k + (n + 1) by omega], ?_, ?_⟩
    · intro j hj hjN
      rcases Nat.eq_or_lt_of_le hj with h | h
      · subst h
        rw [t6 _ (fun i hi hiN => hinj k i (by omega) (by omega))]
        simp only
        rw [rs, hr]; rfl
      · rw [t5 j h (by omega)]
        simp only
        rw [ro _ (hsd k j h (by omega))]
    · intro a ha
      rw [t6 a (fun j hj hjN => ha j (by omega) (by omega))]
      exact ro a (ha k (Nat.le_refl k) (by omega))

/-- One bit of a byte written, the other seven kept (41_translator.md R133). -/
theorem putBit_bits (bit : Nat) (hb : bit ≤ 7) (on : Bool) (v : Byte) : (putBit bit on v).getLsbD bit = on ∧ ∀ j, j < 8 → j ≠ bit → (putBit bit on v).getLsbD j = v.getLsbD j := by
  constructor
  · unfold putBit; cases on <;> simp [BitVec.getLsbD_shiftLeft]; omega
  · intro j h1 h2
    unfold putBit; cases on <;> simp [h1] <;> omega

/-- The first step of a pixel write the translator places (42_framebuffer.md R140). -/
theorem startPixel_place {s : State} (hl : s.life ≠ .uninit) (hc : 1 ≤ s.cfg.colordepth.toNat) {x y redOff : Int} {bit : Nat} (h : s.translate x y = .place redOff bit) (ch : Channels) :
    s.startPixel x y ch = .next { s with hostOp := .scatter s.editBase redOff bit (s.wireValues ch).red (s.wireValues ch).green (s.wireValues ch).blue 0 } := by
  have hu : s.life.isUninit = false := by cases h : s.life <;> simp_all [Life.isUninit]
  simp [State.startPixel, hu, h]; omega

/-- The bits of a number below 2^n, weighted, sum to it (41_translator.md R133). -/
theorem bits_sum (v : Nat) : ∀ n, ((List.range n).map fun p => if v.testBit p then 2 ^ p else 0).sum = v % 2 ^ n := by
  intro n
  induction n with
  | zero => simp [Nat.mod_one]
  | succ n ih =>
    rw [List.range_succ, List.map_append, List.sum_append, ih]
    simp only [List.map_cons, List.map_nil, List.sum_cons, List.sum_nil]
    rw [Nat.mod_pow_succ, Nat.testBit_eq_decide_div_mod_eq]
    rcases Nat.mod_two_eq_zero_or_one (v / 2 ^ n) with h | h <;> simp [h]

end Sys2Proof.Machine
end

