-- ==== Sys2Proof/Laws/State.lean ====
section
/-! SUPPORT. One lemma per field of State for every named update: what the update leaves in the field. -/

namespace Sys2Proof.Machine

variable (s : State)

/-! ### `State.refuse` -/

@[simp] theorem State.refuse_params (c : ErrCode) : (s.refuse c).params = s.params := rfl
@[simp] theorem State.refuse_life (c : ErrCode) : (s.refuse c).life = s.life := rfl
@[simp] theorem State.refuse_refused (c : ErrCode) : (s.refuse c).refused = true := rfl
@[simp] theorem State.refuse_errcode (c : ErrCode) : (s.refuse c).errcode = c := rfl
@[simp] theorem State.refuse_cfg (c : ErrCode) : (s.refuse c).cfg = s.cfg := rfl
@[simp] theorem State.refuse_der (c : ErrCode) : (s.refuse c).der = s.der := rfl
@[simp] theorem State.refuse_muxseq (c : ErrCode) : (s.refuse c).muxseq = s.muxseq := rfl
@[simp] theorem State.refuse_rowoff (c : ErrCode) : (s.refuse c).rowoff = s.rowoff := rfl
@[simp] theorem State.refuse_sel (c : ErrCode) : (s.refuse c).sel = s.sel := rfl
@[simp] theorem State.refuse_fb (c : ErrCode) : (s.refuse c).fb = s.fb := rfl
@[simp] theorem State.refuse_gpo (c : ErrCode) : (s.refuse c).gpo = s.gpo := rfl
@[simp] theorem State.refuse_tx (c : ErrCode) : (s.refuse c).tx = s.tx := rfl
@[simp] theorem State.refuse_tarmed (c : ErrCode) : (s.refuse c).tarmed = s.tarmed := rfl
@[simp] theorem State.refuse_tcount (c : ErrCode) : (s.refuse c).tcount = s.tcount := rfl
@[simp] theorem State.refuse_trace (c : ErrCode) : (s.refuse c).trace = s.trace := rfl
@[simp] theorem State.refuse_hostOp (c : ErrCode) : (s.refuse c).hostOp = s.hostOp := rfl
@[simp] theorem State.refuse_port (c : ErrCode) : (s.refuse c).port = s.port := rfl
@[simp] theorem State.refuse_schedule (c : ErrCode) : (s.refuse c).schedule = s.schedule := rfl
@[simp] theorem State.refuse_turn (c : ErrCode) : (s.refuse c).turn = s.turn := rfl

/-! ### `State.emit` -/

@[simp] theorem State.emit_params (e : TraceEvent) : (s.emit e).params = s.params := rfl
@[simp] theorem State.emit_life (e : TraceEvent) : (s.emit e).life = s.life := rfl
@[simp] theorem State.emit_refused (e : TraceEvent) : (s.emit e).refused = s.refused := rfl
@[simp] theorem State.emit_errcode (e : TraceEvent) : (s.emit e).errcode = s.errcode := rfl
@[simp] theorem State.emit_cfg (e : TraceEvent) : (s.emit e).cfg = s.cfg := rfl
@[simp] theorem State.emit_der (e : TraceEvent) : (s.emit e).der = s.der := rfl
@[simp] theorem State.emit_muxseq (e : TraceEvent) : (s.emit e).muxseq = s.muxseq := rfl
@[simp] theorem State.emit_rowoff (e : TraceEvent) : (s.emit e).rowoff = s.rowoff := rfl
@[simp] theorem State.emit_sel (e : TraceEvent) : (s.emit e).sel = s.sel := rfl
@[simp] theorem State.emit_fb (e : TraceEvent) : (s.emit e).fb = s.fb := rfl
@[simp] theorem State.emit_gpo (e : TraceEvent) : (s.emit e).gpo = s.gpo := rfl
@[simp] theorem State.emit_tx (e : TraceEvent) : (s.emit e).tx = s.tx := rfl
@[simp] theorem State.emit_tarmed (e : TraceEvent) : (s.emit e).tarmed = s.tarmed := rfl
@[simp] theorem State.emit_tcount (e : TraceEvent) : (s.emit e).tcount = s.tcount := rfl
@[simp] theorem State.emit_trace (e : TraceEvent) : (s.emit e).trace = s.trace ++ [e] := rfl
@[simp] theorem State.emit_hostOp (e : TraceEvent) : (s.emit e).hostOp = s.hostOp := rfl
@[simp] theorem State.emit_port (e : TraceEvent) : (s.emit e).port = s.port := rfl
@[simp] theorem State.emit_schedule (e : TraceEvent) : (s.emit e).schedule = s.schedule := rfl
@[simp] theorem State.emit_turn (e : TraceEvent) : (s.emit e).turn = s.turn := rfl

/-! ### `State.gpoSet` -/

@[simp] theorem State.gpoSet_params (m : BitVec 7) : (s.gpoSet m).params = s.params := rfl
@[simp] theorem State.gpoSet_life (m : BitVec 7) : (s.gpoSet m).life = s.life := rfl
@[simp] theorem State.gpoSet_refused (m : BitVec 7) : (s.gpoSet m).refused = s.refused := rfl
@[simp] theorem State.gpoSet_errcode (m : BitVec 7) : (s.gpoSet m).errcode = s.errcode := rfl
@[simp] theorem State.gpoSet_cfg (m : BitVec 7) : (s.gpoSet m).cfg = s.cfg := rfl
@[simp] theorem State.gpoSet_der (m : BitVec 7) : (s.gpoSet m).der = s.der := rfl
@[simp] theorem State.gpoSet_muxseq (m : BitVec 7) : (s.gpoSet m).muxseq = s.muxseq := rfl
@[simp] theorem State.gpoSet_rowoff (m : BitVec 7) : (s.gpoSet m).rowoff = s.rowoff := rfl
@[simp] theorem State.gpoSet_sel (m : BitVec 7) : (s.gpoSet m).sel = s.sel := rfl
@[simp] theorem State.gpoSet_fb (m : BitVec 7) : (s.gpoSet m).fb = s.fb := rfl
@[simp] theorem State.gpoSet_gpo (m : BitVec 7) : (s.gpoSet m).gpo = s.gpo ||| m := rfl
@[simp] theorem State.gpoSet_tx (m : BitVec 7) : (s.gpoSet m).tx = s.tx := rfl
@[simp] theorem State.gpoSet_tarmed (m : BitVec 7) : (s.gpoSet m).tarmed = s.tarmed := rfl
@[simp] theorem State.gpoSet_tcount (m : BitVec 7) : (s.gpoSet m).tcount = s.tcount := rfl
@[simp] theorem State.gpoSet_trace (m : BitVec 7) : (s.gpoSet m).trace = s.trace ++ [.gpoSet m] := rfl
@[simp] theorem State.gpoSet_hostOp (m : BitVec 7) : (s.gpoSet m).hostOp = s.hostOp := rfl
@[simp] theorem State.gpoSet_port (m : BitVec 7) : (s.gpoSet m).port = s.port := rfl
@[simp] theorem State.gpoSet_schedule (m : BitVec 7) : (s.gpoSet m).schedule = s.schedule := rfl
@[simp] theorem State.gpoSet_turn (m : BitVec 7) : (s.gpoSet m).turn = s.turn := rfl

/-! ### `State.gpoClr` -/

@[simp] theorem State.gpoClr_params (m : BitVec 7) : (s.gpoClr m).params = s.params := rfl
@[simp] theorem State.gpoClr_life (m : BitVec 7) : (s.gpoClr m).life = s.life := rfl
@[simp] theorem State.gpoClr_refused (m : BitVec 7) : (s.gpoClr m).refused = s.refused := rfl
@[simp] theorem State.gpoClr_errcode (m : BitVec 7) : (s.gpoClr m).errcode = s.errcode := rfl
@[simp] theorem State.gpoClr_cfg (m : BitVec 7) : (s.gpoClr m).cfg = s.cfg := rfl
@[simp] theorem State.gpoClr_der (m : BitVec 7) : (s.gpoClr m).der = s.der := rfl
@[simp] theorem State.gpoClr_muxseq (m : BitVec 7) : (s.gpoClr m).muxseq = s.muxseq := rfl
@[simp] theorem State.gpoClr_rowoff (m : BitVec 7) : (s.gpoClr m).rowoff = s.rowoff := rfl
@[simp] theorem State.gpoClr_sel (m : BitVec 7) : (s.gpoClr m).sel = s.sel := rfl
@[simp] theorem State.gpoClr_fb (m : BitVec 7) : (s.gpoClr m).fb = s.fb := rfl
@[simp] theorem State.gpoClr_gpo (m : BitVec 7) : (s.gpoClr m).gpo = s.gpo &&& ~~~m := rfl
@[simp] theorem State.gpoClr_tx (m : BitVec 7) : (s.gpoClr m).tx = s.tx := rfl
@[simp] theorem State.gpoClr_tarmed (m : BitVec 7) : (s.gpoClr m).tarmed = s.tarmed := rfl
@[simp] theorem State.gpoClr_tcount (m : BitVec 7) : (s.gpoClr m).tcount = s.tcount := rfl
@[simp] theorem State.gpoClr_trace (m : BitVec 7) : (s.gpoClr m).trace = s.trace ++ [.gpoClr m] := rfl
@[simp] theorem State.gpoClr_hostOp (m : BitVec 7) : (s.gpoClr m).hostOp = s.hostOp := rfl
@[simp] theorem State.gpoClr_port (m : BitVec 7) : (s.gpoClr m).port = s.port := rfl
@[simp] theorem State.gpoClr_schedule (m : BitVec 7) : (s.gpoClr m).schedule = s.schedule := rfl
@[simp] theorem State.gpoClr_turn (m : BitVec 7) : (s.gpoClr m).turn = s.turn := rfl

/-! ### `State.timerArm` -/

@[simp] theorem State.timerArm_params (n : BitVec 32) : (s.timerArm n).params = s.params := rfl
@[simp] theorem State.timerArm_life (n : BitVec 32) : (s.timerArm n).life = s.life := rfl
@[simp] theorem State.timerArm_refused (n : BitVec 32) : (s.timerArm n).refused = s.refused := rfl
@[simp] theorem State.timerArm_errcode (n : BitVec 32) : (s.timerArm n).errcode = s.errcode := rfl
@[simp] theorem State.timerArm_cfg (n : BitVec 32) : (s.timerArm n).cfg = s.cfg := rfl
@[simp] theorem State.timerArm_der (n : BitVec 32) : (s.timerArm n).der = s.der := rfl
@[simp] theorem State.timerArm_muxseq (n : BitVec 32) : (s.timerArm n).muxseq = s.muxseq := rfl
@[simp] theorem State.timerArm_rowoff (n : BitVec 32) : (s.timerArm n).rowoff = s.rowoff := rfl
@[simp] theorem State.timerArm_sel (n : BitVec 32) : (s.timerArm n).sel = s.sel := rfl
@[simp] theorem State.timerArm_fb (n : BitVec 32) : (s.timerArm n).fb = s.fb := rfl
@[simp] theorem State.timerArm_gpo (n : BitVec 32) : (s.timerArm n).gpo = s.gpo := rfl
@[simp] theorem State.timerArm_tx (n : BitVec 32) : (s.timerArm n).tx = s.tx := rfl
@[simp] theorem State.timerArm_tarmed (n : BitVec 32) : (s.timerArm n).tarmed = true := rfl
@[simp] theorem State.timerArm_tcount (n : BitVec 32) : (s.timerArm n).tcount = n := rfl
@[simp] theorem State.timerArm_trace (n : BitVec 32) : (s.timerArm n).trace = s.trace ++ [.timerArm n] := rfl
@[simp] theorem State.timerArm_hostOp (n : BitVec 32) : (s.timerArm n).hostOp = s.hostOp := rfl
@[simp] theorem State.timerArm_port (n : BitVec 32) : (s.timerArm n).port = s.port := rfl
@[simp] theorem State.timerArm_schedule (n : BitVec 32) : (s.timerArm n).schedule = s.schedule := rfl
@[simp] theorem State.timerArm_turn (n : BitVec 32) : (s.timerArm n).turn = s.turn := rfl

/-! ### `State.timerDetach` -/

@[simp] theorem State.timerDetach_params : (s.timerDetach).params = s.params := rfl
@[simp] theorem State.timerDetach_life : (s.timerDetach).life = s.life := rfl
@[simp] theorem State.timerDetach_refused : (s.timerDetach).refused = s.refused := rfl
@[simp] theorem State.timerDetach_errcode : (s.timerDetach).errcode = s.errcode := rfl
@[simp] theorem State.timerDetach_cfg : (s.timerDetach).cfg = s.cfg := rfl
@[simp] theorem State.timerDetach_der : (s.timerDetach).der = s.der := rfl
@[simp] theorem State.timerDetach_muxseq : (s.timerDetach).muxseq = s.muxseq := rfl
@[simp] theorem State.timerDetach_rowoff : (s.timerDetach).rowoff = s.rowoff := rfl
@[simp] theorem State.timerDetach_sel : (s.timerDetach).sel = s.sel := rfl
@[simp] theorem State.timerDetach_fb : (s.timerDetach).fb = s.fb := rfl
@[simp] theorem State.timerDetach_gpo : (s.timerDetach).gpo = s.gpo := rfl
@[simp] theorem State.timerDetach_tx : (s.timerDetach).tx = s.tx := rfl
@[simp] theorem State.timerDetach_tarmed : (s.timerDetach).tarmed = false := rfl
@[simp] theorem State.timerDetach_tcount : (s.timerDetach).tcount = s.tcount := rfl
@[simp] theorem State.timerDetach_trace : (s.timerDetach).trace = s.trace ++ [.timerDetach] := rfl
@[simp] theorem State.timerDetach_hostOp : (s.timerDetach).hostOp = s.hostOp := rfl
@[simp] theorem State.timerDetach_port : (s.timerDetach).port = s.port := rfl
@[simp] theorem State.timerDetach_schedule : (s.timerDetach).schedule = s.schedule := rfl
@[simp] theorem State.timerDetach_turn : (s.timerDetach).turn = s.turn := rfl

/-! ### `State.txStart` -/

@[simp] theorem State.txStart_params (a n : BitVec 32) : (s.txStart a n).params = s.params := rfl
@[simp] theorem State.txStart_life (a n : BitVec 32) : (s.txStart a n).life = s.life := rfl
@[simp] theorem State.txStart_refused (a n : BitVec 32) : (s.txStart a n).refused = s.refused := rfl
@[simp] theorem State.txStart_errcode (a n : BitVec 32) : (s.txStart a n).errcode = s.errcode := rfl
@[simp] theorem State.txStart_cfg (a n : BitVec 32) : (s.txStart a n).cfg = s.cfg := rfl
@[simp] theorem State.txStart_der (a n : BitVec 32) : (s.txStart a n).der = s.der := rfl
@[simp] theorem State.txStart_muxseq (a n : BitVec 32) : (s.txStart a n).muxseq = s.muxseq := rfl
@[simp] theorem State.txStart_rowoff (a n : BitVec 32) : (s.txStart a n).rowoff = s.rowoff := rfl
@[simp] theorem State.txStart_sel (a n : BitVec 32) : (s.txStart a n).sel = s.sel := rfl
@[simp] theorem State.txStart_fb (a n : BitVec 32) : (s.txStart a n).fb = s.fb := rfl
@[simp] theorem State.txStart_gpo (a n : BitVec 32) : (s.txStart a n).gpo = s.gpo := rfl
@[simp] theorem State.txStart_tx (a n : BitVec 32) : (s.txStart a n).tx = { busy := true, addr := a, len := n, pos := 0 } := rfl
@[simp] theorem State.txStart_tarmed (a n : BitVec 32) : (s.txStart a n).tarmed = s.tarmed := rfl
@[simp] theorem State.txStart_tcount (a n : BitVec 32) : (s.txStart a n).tcount = s.tcount := rfl
@[simp] theorem State.txStart_trace (a n : BitVec 32) : (s.txStart a n).trace = s.trace ++ [.txStart a n] := rfl
@[simp] theorem State.txStart_hostOp (a n : BitVec 32) : (s.txStart a n).hostOp = s.hostOp := rfl
@[simp] theorem State.txStart_port (a n : BitVec 32) : (s.txStart a n).port = s.port := rfl
@[simp] theorem State.txStart_schedule (a n : BitVec 32) : (s.txStart a n).schedule = s.schedule := rfl
@[simp] theorem State.txStart_turn (a n : BitVec 32) : (s.txStart a n).turn = s.turn := rfl

/-! ### `State.resp` -/

@[simp] theorem State.resp_params (v : BitVec 32) : (s.resp v).params = s.params := rfl
@[simp] theorem State.resp_life (v : BitVec 32) : (s.resp v).life = s.life := rfl
@[simp] theorem State.resp_refused (v : BitVec 32) : (s.resp v).refused = s.refused := rfl
@[simp] theorem State.resp_errcode (v : BitVec 32) : (s.resp v).errcode = s.errcode := rfl
@[simp] theorem State.resp_cfg (v : BitVec 32) : (s.resp v).cfg = s.cfg := rfl
@[simp] theorem State.resp_der (v : BitVec 32) : (s.resp v).der = s.der := rfl
@[simp] theorem State.resp_muxseq (v : BitVec 32) : (s.resp v).muxseq = s.muxseq := rfl
@[simp] theorem State.resp_rowoff (v : BitVec 32) : (s.resp v).rowoff = s.rowoff := rfl
@[simp] theorem State.resp_sel (v : BitVec 32) : (s.resp v).sel = s.sel := rfl
@[simp] theorem State.resp_fb (v : BitVec 32) : (s.resp v).fb = s.fb := rfl
@[simp] theorem State.resp_gpo (v : BitVec 32) : (s.resp v).gpo = s.gpo := rfl
@[simp] theorem State.resp_tx (v : BitVec 32) : (s.resp v).tx = s.tx := rfl
@[simp] theorem State.resp_tarmed (v : BitVec 32) : (s.resp v).tarmed = s.tarmed := rfl
@[simp] theorem State.resp_tcount (v : BitVec 32) : (s.resp v).tcount = s.tcount := rfl
@[simp] theorem State.resp_trace (v : BitVec 32) : (s.resp v).trace = s.trace ++ [.resp v] := rfl
@[simp] theorem State.resp_hostOp (v : BitVec 32) : (s.resp v).hostOp = s.hostOp := rfl
@[simp] theorem State.resp_port (v : BitVec 32) : (s.resp v).port = s.port := rfl
@[simp] theorem State.resp_schedule (v : BitVec 32) : (s.resp v).schedule = s.schedule := rfl
@[simp] theorem State.resp_turn (v : BitVec 32) : (s.resp v).turn = s.turn := rfl

/-! ### `State.initialised` -/

@[simp] theorem State.initialised_params (z : Sizes) (t : Nat) : (s.initialised z t).params = s.params := rfl
@[simp] theorem State.initialised_life (z : Sizes) (t : Nat) : (s.initialised z t).life = .idle := rfl
@[simp] theorem State.initialised_refused (z : Sizes) (t : Nat) : (s.initialised z t).refused = s.refused := rfl
@[simp] theorem State.initialised_errcode (z : Sizes) (t : Nat) : (s.initialised z t).errcode = s.errcode := rfl
@[simp] theorem State.initialised_cfg (z : Sizes) (t : Nat) : (s.initialised z t).cfg = s.cfg := rfl
@[simp] theorem State.initialised_der (z : Sizes) (t : Nat) : (s.initialised z t).der = derivedOf z t := rfl
@[simp] theorem State.initialised_muxseq (z : Sizes) (t : Nat) : (s.initialised z t).muxseq = muxSeqTable z.rowpattern z.sbs := rfl
@[simp] theorem State.initialised_rowoff (z : Sizes) (t : Nat) : (s.initialised z t).rowoff = rowOffTable s.cfg.height.toNat z.rowpattern z.sbs := rfl
@[simp] theorem State.initialised_sel (z : Sizes) (t : Nat) : (s.initialised z t).sel = false := rfl
@[simp] theorem State.initialised_fb (z : Sizes) (t : Nat) : (s.initialised z t).fb = s.fb.create (z.nbuf * z.fbsize) := rfl
@[simp] theorem State.initialised_gpo (z : Sizes) (t : Nat) : (s.initialised z t).gpo = s.gpo := rfl
@[simp] theorem State.initialised_tx (z : Sizes) (t : Nat) : (s.initialised z t).tx = s.tx := rfl
@[simp] theorem State.initialised_tarmed (z : Sizes) (t : Nat) : (s.initialised z t).tarmed = s.tarmed := rfl
@[simp] theorem State.initialised_tcount (z : Sizes) (t : Nat) : (s.initialised z t).tcount = s.tcount := rfl
@[simp] theorem State.initialised_trace (z : Sizes) (t : Nat) : (s.initialised z t).trace = s.trace := rfl
@[simp] theorem State.initialised_hostOp (z : Sizes) (t : Nat) : (s.initialised z t).hostOp = s.hostOp := rfl
@[simp] theorem State.initialised_port (z : Sizes) (t : Nat) : (s.initialised z t).port = s.port := rfl
@[simp] theorem State.initialised_schedule (z : Sizes) (t : Nat) : (s.initialised z t).schedule = s.schedule := rfl
@[simp] theorem State.initialised_turn (z : Sizes) (t : Nat) : (s.initialised z t).turn = s.turn := rfl

/-! ### `State.takeTurn` -/

@[simp] theorem State.takeTurn_params : (s.takeTurn).params = s.params := rfl
@[simp] theorem State.takeTurn_life : (s.takeTurn).life = s.life := rfl
@[simp] theorem State.takeTurn_refused : (s.takeTurn).refused = s.refused := rfl
@[simp] theorem State.takeTurn_errcode : (s.takeTurn).errcode = s.errcode := rfl
@[simp] theorem State.takeTurn_cfg : (s.takeTurn).cfg = s.cfg := rfl
@[simp] theorem State.takeTurn_der : (s.takeTurn).der = s.der := rfl
@[simp] theorem State.takeTurn_muxseq : (s.takeTurn).muxseq = s.muxseq := rfl
@[simp] theorem State.takeTurn_rowoff : (s.takeTurn).rowoff = s.rowoff := rfl
@[simp] theorem State.takeTurn_sel : (s.takeTurn).sel = s.sel := rfl
@[simp] theorem State.takeTurn_fb : (s.takeTurn).fb = s.fb := rfl
@[simp] theorem State.takeTurn_gpo : (s.takeTurn).gpo = s.gpo := rfl
@[simp] theorem State.takeTurn_tx : (s.takeTurn).tx = s.tx := rfl
@[simp] theorem State.takeTurn_tarmed : (s.takeTurn).tarmed = s.tarmed := rfl
@[simp] theorem State.takeTurn_tcount : (s.takeTurn).tcount = s.tcount := rfl
@[simp] theorem State.takeTurn_trace : (s.takeTurn).trace = s.trace := rfl
@[simp] theorem State.takeTurn_hostOp : (s.takeTurn).hostOp = s.hostOp := rfl
@[simp] theorem State.takeTurn_port : (s.takeTurn).port = s.port := rfl
@[simp] theorem State.takeTurn_schedule : (s.takeTurn).schedule = s.schedule.tail := rfl
@[simp] theorem State.takeTurn_turn : (s.takeTurn).turn = s.turn + 1 := rfl

/-! ### `State.applyMux`, which sets or clears one mask -/

@[simp] theorem State.applyMux_params (e : MuxEntry) : (s.applyMux e).params = s.params := by
  unfold State.applyMux; cases e.cmd <;> rfl
@[simp] theorem State.applyMux_life (e : MuxEntry) : (s.applyMux e).life = s.life := by
  unfold State.applyMux; cases e.cmd <;> rfl
@[simp] theorem State.applyMux_refused (e : MuxEntry) : (s.applyMux e).refused = s.refused := by
  unfold State.applyMux; cases e.cmd <;> rfl
@[simp] theorem State.applyMux_errcode (e : MuxEntry) : (s.applyMux e).errcode = s.errcode := by
  unfold State.applyMux; cases e.cmd <;> rfl
@[simp] theorem State.applyMux_cfg (e : MuxEntry) : (s.applyMux e).cfg = s.cfg := by
  unfold State.applyMux; cases e.cmd <;> rfl
@[simp] theorem State.applyMux_der (e : MuxEntry) : (s.applyMux e).der = s.der := by
  unfold State.applyMux; cases e.cmd <;> rfl
@[simp] theorem State.applyMux_muxseq (e : MuxEntry) : (s.applyMux e).muxseq = s.muxseq := by
  unfold State.applyMux; cases e.cmd <;> rfl
@[simp] theorem State.applyMux_rowoff (e : MuxEntry) : (s.applyMux e).rowoff = s.rowoff := by
  unfold State.applyMux; cases e.cmd <;> rfl
@[simp] theorem State.applyMux_sel (e : MuxEntry) : (s.applyMux e).sel = s.sel := by
  unfold State.applyMux; cases e.cmd <;> rfl
@[simp] theorem State.applyMux_fb (e : MuxEntry) : (s.applyMux e).fb = s.fb := by
  unfold State.applyMux; cases e.cmd <;> rfl
@[simp] theorem State.applyMux_tx (e : MuxEntry) : (s.applyMux e).tx = s.tx := by
  unfold State.applyMux; cases e.cmd <;> rfl
@[simp] theorem State.applyMux_tarmed (e : MuxEntry) : (s.applyMux e).tarmed = s.tarmed := by
  unfold State.applyMux; cases e.cmd <;> rfl
@[simp] theorem State.applyMux_tcount (e : MuxEntry) : (s.applyMux e).tcount = s.tcount := by
  unfold State.applyMux; cases e.cmd <;> rfl
@[simp] theorem State.applyMux_hostOp (e : MuxEntry) : (s.applyMux e).hostOp = s.hostOp := by
  unfold State.applyMux; cases e.cmd <;> rfl
@[simp] theorem State.applyMux_port (e : MuxEntry) : (s.applyMux e).port = s.port := by
  unfold State.applyMux; cases e.cmd <;> rfl
@[simp] theorem State.applyMux_schedule (e : MuxEntry) : (s.applyMux e).schedule = s.schedule := by
  unfold State.applyMux; cases e.cmd <;> rfl
@[simp] theorem State.applyMux_turn (e : MuxEntry) : (s.applyMux e).turn = s.turn := by
  unfold State.applyMux; cases e.cmd <;> rfl

/-! ### `State.showLine`, steps 1 to 4 of TICK -/

@[simp] theorem State.showLine_params (pos : RefreshPos) : (s.showLine pos).params = s.params := by
  unfold State.showLine; by_cases h : pos.plane = 0#3 <;> simp [h]
@[simp] theorem State.showLine_life (pos : RefreshPos) : (s.showLine pos).life = s.life := by
  unfold State.showLine; by_cases h : pos.plane = 0#3 <;> simp [h]
@[simp] theorem State.showLine_refused (pos : RefreshPos) : (s.showLine pos).refused = s.refused := by
  unfold State.showLine; by_cases h : pos.plane = 0#3 <;> simp [h]
@[simp] theorem State.showLine_errcode (pos : RefreshPos) : (s.showLine pos).errcode = s.errcode := by
  unfold State.showLine; by_cases h : pos.plane = 0#3 <;> simp [h]
@[simp] theorem State.showLine_cfg (pos : RefreshPos) : (s.showLine pos).cfg = s.cfg := by
  unfold State.showLine; by_cases h : pos.plane = 0#3 <;> simp [h]
@[simp] theorem State.showLine_der (pos : RefreshPos) : (s.showLine pos).der = s.der := by
  unfold State.showLine; by_cases h : pos.plane = 0#3 <;> simp [h]
@[simp] theorem State.showLine_muxseq (pos : RefreshPos) : (s.showLine pos).muxseq = s.muxseq := by
  unfold State.showLine; by_cases h : pos.plane = 0#3 <;> simp [h]
@[simp] theorem State.showLine_rowoff (pos : RefreshPos) : (s.showLine pos).rowoff = s.rowoff := by
  unfold State.showLine; by_cases h : pos.plane = 0#3 <;> simp [h]
@[simp] theorem State.showLine_sel (pos : RefreshPos) : (s.showLine pos).sel = s.sel := by
  unfold State.showLine; by_cases h : pos.plane = 0#3 <;> simp [h]
@[simp] theorem State.showLine_fb (pos : RefreshPos) : (s.showLine pos).fb = s.fb := by
  unfold State.showLine; by_cases h : pos.plane = 0#3 <;> simp [h]
@[simp] theorem State.showLine_tx (pos : RefreshPos) : (s.showLine pos).tx = s.tx := by
  unfold State.showLine; by_cases h : pos.plane = 0#3 <;> simp [h]
@[simp] theorem State.showLine_tarmed (pos : RefreshPos) : (s.showLine pos).tarmed = s.tarmed := by
  unfold State.showLine; by_cases h : pos.plane = 0#3 <;> simp [h]
@[simp] theorem State.showLine_tcount (pos : RefreshPos) : (s.showLine pos).tcount = s.tcount := by
  unfold State.showLine; by_cases h : pos.plane = 0#3 <;> simp [h]
@[simp] theorem State.showLine_hostOp (pos : RefreshPos) : (s.showLine pos).hostOp = s.hostOp := by
  unfold State.showLine; by_cases h : pos.plane = 0#3 <;> simp [h]
@[simp] theorem State.showLine_port (pos : RefreshPos) : (s.showLine pos).port = s.port := by
  unfold State.showLine; by_cases h : pos.plane = 0#3 <;> simp [h]
@[simp] theorem State.showLine_schedule (pos : RefreshPos) : (s.showLine pos).schedule = s.schedule := by
  unfold State.showLine; by_cases h : pos.plane = 0#3 <;> simp [h]
@[simp] theorem State.showLine_turn (pos : RefreshPos) : (s.showLine pos).turn = s.turn := by
  unfold State.showLine; by_cases h : pos.plane = 0#3 <;> simp [h]

/-! ### What the views of State read -/

@[simp] theorem State.muxEntry_showLine (pos : RefreshPos) (i : Nat) :
    (s.showLine pos).muxEntry i = s.muxEntry i := by simp [State.muxEntry]

@[simp] theorem State.dispBase_showLine (pos : RefreshPos) : (s.showLine pos).dispBase = s.dispBase := by
  simp [State.dispBase, State.storageBase]

@[simp] theorem State.advance_showLine (pos p : RefreshPos) : (s.showLine pos).advance p = s.advance p := by
  simp [State.advance]

theorem State.advance_setTarmed (b : Bool) (p : RefreshPos) : { s with tarmed := b }.advance p = s.advance p := rfl

theorem State.showLine_setTarmed (b : Bool) (p : RefreshPos) :
    { s with tarmed := b }.showLine p = { s.showLine p with tarmed := b } := by
  unfold State.showLine
  by_cases h : p.plane = 0#3
  · simp only [h, if_true, State.applyMux]
    have he : ((State.gpoClr Config.oeMask { s with tarmed := b }).muxEntry p.row.toNat) =
      ((State.gpoClr Config.oeMask s).muxEntry p.row.toNat) := rfl
    rw [he]
    cases ((State.gpoClr Config.oeMask s).muxEntry p.row.toNat).cmd <;> rfl
  · simp only [h, if_false]; rfl

/-! ### `State.tick` -/

/-- Everything a TICK does (43_scheduler.md R164, R165, R166): the GPIO changes of steps 1 to 4, the advanced refresh
position, the transfer started from it, and the timer armed again. -/
theorem State.tick_eq (pos : RefreshPos) :
    s.tick pos = { s with
      life := .armed (s.advance pos)
      gpo := (s.showLine pos).gpo
      tx := { busy := true, addr := (s.advance pos).cursor, len := s.der.sbs, pos := 0 }
      tarmed := true
      tcount := BitVec.ofNat 32 (s.der.baseticks.toNat * 2 ^ (s.advance pos).plane.toNat)
      trace := (s.showLine pos).trace ++ [.txStart (s.advance pos).cursor s.der.sbs,
        .timerArm (BitVec.ofNat 32 (s.der.baseticks.toNat * 2 ^ (s.advance pos).plane.toNat))] } := by
  have h : (({ s with tarmed := false } : State).showLine pos).advance pos = s.advance pos := by
    rw [State.advance_showLine]; rfl
  unfold State.tick
  simp only [h]
  rw [State.showLine_setTarmed]
  simp [State.txStart, State.timerArm]

@[simp] theorem State.tick_params (pos : RefreshPos) :
    (s.tick pos).params = s.params := by rw [State.tick_eq]
@[simp] theorem State.tick_life (pos : RefreshPos) :
    (s.tick pos).life = .armed (s.advance pos) := by rw [State.tick_eq]
@[simp] theorem State.tick_refused (pos : RefreshPos) :
    (s.tick pos).refused = s.refused := by rw [State.tick_eq]
@[simp] theorem State.tick_errcode (pos : RefreshPos) :
    (s.tick pos).errcode = s.errcode := by rw [State.tick_eq]
@[simp] theorem State.tick_cfg (pos : RefreshPos) :
    (s.tick pos).cfg = s.cfg := by rw [State.tick_eq]
@[simp] theorem State.tick_der (pos : RefreshPos) :
    (s.tick pos).der = s.der := by rw [State.tick_eq]
@[simp] theorem State.tick_muxseq (pos : RefreshPos) :
    (s.tick pos).muxseq = s.muxseq := by rw [State.tick_eq]
@[simp] theorem State.tick_rowoff (pos : RefreshPos) :
    (s.tick pos).rowoff = s.rowoff := by rw [State.tick_eq]
@[simp] theorem State.tick_sel (pos : RefreshPos) :
    (s.tick pos).sel = s.sel := by rw [State.tick_eq]
@[simp] theorem State.tick_fb (pos : RefreshPos) :
    (s.tick pos).fb = s.fb := by rw [State.tick_eq]
@[simp] theorem State.tick_gpo (pos : RefreshPos) :
    (s.tick pos).gpo = (s.showLine pos).gpo := by rw [State.tick_eq]
@[simp] theorem State.tick_tx (pos : RefreshPos) :
    (s.tick pos).tx = { busy := true, addr := (s.advance pos).cursor, len := s.der.sbs, pos := 0 } := by rw [State.tick_eq]
@[simp] theorem State.tick_tarmed (pos : RefreshPos) :
    (s.tick pos).tarmed = true := by rw [State.tick_eq]
@[simp] theorem State.tick_tcount (pos : RefreshPos) :
    (s.tick pos).tcount = BitVec.ofNat 32 (s.der.baseticks.toNat * 2 ^ (s.advance pos).plane.toNat) := by rw [State.tick_eq]
@[simp] theorem State.tick_trace (pos : RefreshPos) :
    (s.tick pos).trace = (s.showLine pos).trace ++ [.txStart (s.advance pos).cursor s.der.sbs,
      .timerArm (BitVec.ofNat 32 (s.der.baseticks.toNat * 2 ^ (s.advance pos).plane.toNat))] := by rw [State.tick_eq]
@[simp] theorem State.tick_hostOp (pos : RefreshPos) :
    (s.tick pos).hostOp = s.hostOp := by rw [State.tick_eq]
@[simp] theorem State.tick_port (pos : RefreshPos) :
    (s.tick pos).port = s.port := by rw [State.tick_eq]
@[simp] theorem State.tick_schedule (pos : RefreshPos) :
    (s.tick pos).schedule = s.schedule := by rw [State.tick_eq]
@[simp] theorem State.tick_turn (pos : RefreshPos) :
    (s.tick pos).turn = s.turn := by rw [State.tick_eq]

end Sys2Proof.Machine
end

