-- ==== Sys2Proof/Laws/Effects.lean ====
section
/-! SUPPORT. Once over, everything a command, an agent and a step can do. -/

namespace Sys2Proof.Machine

/-- The configuration registers after an accepted setter other than SETFPS and SETBUSHZ (40_config.md R80): locked
groups stay, the timing group stays, and legal values stay legal. -/
structure SetterChange (l : Life) (c c' : ConfigRegs) : Prop where
  geo : l ≠ .uninit →
    c'.width = c.width ∧ c'.height = c.height ∧ c'.muxbits = c.muxbits ∧ c'.colordepth = c.colordepth ∧
      c'.dbuf = c.dbuf
  tr : l.isArmed = true →
    c'.panels = c.panels ∧ c'.rotate = c.rotate ∧ c'.flip = c.flip ∧ c'.colororder = c.colororder ∧
      c'.scanpattern = c.scanpattern ∧ c'.blockpattern = c.blockpattern ∧ c'.coloroffset = c.coloroffset
  timing : c'.fps = c.fps ∧ c'.bushz = c.bushz
  w : c.width.toNat ≤ 32767 → c'.width.toNat ≤ 32767
  h : c.height.toNat ≤ 32767 → c'.height.toNat ≤ 32767
  cd : 1 ≤ c.colordepth.toNat ∧ c.colordepth.toNat ≤ 8 → 1 ≤ c'.colordepth.toNat ∧ c'.colordepth.toNat ≤ 8
  pan : 1 ≤ c.panels.toNat → 1 ≤ c'.panels.toNat

/-- The byte steps a command can leave to do (20_memory.md R46). -/
inductive Started (s : State) : HostOp → Prop
  | pixel (x y redOff : Int) (ch : Channels) (bit : Nat) (h : s.translate x y = .place redOff bit)
      (h0 : 0 < 3 * s.cfg.colordepth.toNat) :
      Started s (.scatter s.editBase redOff bit (s.wireValues ch).red (s.wireValues ch).green (s.wireValues ch).blue 0)
  | clear (sel : BufferRole) (h0 : 0 < s.der.fbsize.toNat) : Started s (.clear (s.roleBase sel) 0)
  | copy (dir : CopyDir) (h0 : 0 < s.der.fbsize.toNat) : Started s (.copy (s.copyBases dir).1 (s.copyBases dir).2 0)

/-- The next states a command can answer. -/
inductive Effect (s : State) : Instr → State → Prop
  | refuse (i : Instr) (c : ErrCode) (h : c ≠ .none) : Effect s i (s.refuse c)
  | none (i : Instr) : Effect s i s
  | init (hl : s.life = .uninit) (hg : geometryOk s.cfg = true) (hf : s.fitsMemory = true) (t : Nat)
      (ht : s.initTicks = some t) : Effect s .init (s.initialised (deriveSizes s.cfg) t)
  | setter (i : Instr) (c : ConfigRegs) (h : SetterChange s.life s.cfg c) : Effect s i { s with cfg := c }
  | timing0 (i : Instr) (fps : BitVec 16) (bushz : BitVec 32) (hl : s.life = .uninit) :
      Effect s i { s with cfg := { s.cfg with fps := fps, bushz := bushz } }
  | timing (i : Instr) (fps : BitVec 16) (bushz : BitVec 32) (t : Nat) (hl : s.life ≠ .uninit)
      (ht : s.ticksWith fps.toNat bushz.toNat = some t) (hb : s.cfg.bushz.toNat ≠ 0 → bushz.toNat ≠ 0) :
      Effect s i { s with
        cfg := { s.cfg with fps := fps, bushz := bushz }
        der := { s.der with baseticks := BitVec.ofNat 32 t } }
  | enable (hl : s.life = .idle) : Effect s .enable
      ({ s.gpoClr (usedLines s.cfg.muxbits.toNat) with
        life := .armed ⟨0#5, 0#3, BitVec.ofNat 32 (s.dispBase + (s.muxEntry 0).offset.toNat)⟩ }.timerArm s.der.baseticks)
  | disable (hl : s.life ≠ .uninit) :
      Effect s .disable ({ (s.gpoClr Config.oeMask).timerDetach with life := .idle } : State)
  | started (i : Instr) (op : HostOp) (hl : s.life ≠ .uninit) (h : Started s op) : Effect s i { s with hostOp := op }
  | resp (i : Instr) (v : BitVec 32) : Effect s i (s.resp v)
  | swapIdle (i : Instr) (hl : s.life = .idle) (hd : s.cfg.dbuf = true) :
      Effect s i { s with life := .idle, sel := !s.sel }
  | swapArmed (i : Instr) (pos : RefreshPos) (hl : s.life = .armed pos) (hd : s.cfg.dbuf = true) :
      Effect s i { s with
        sel := !s.sel
        life := .armed { pos with
          cursor := BitVec.ofNat 32 (s.storageBase (!s.sel) + (s.muxEntry pos.row.toNat).offset.toNat
            + pos.plane.toNat * s.der.bufsize.toNat) } }

theorem setReg_effect {s t : State} {o : Bool} {n : Option ConfigRegs} {i : Instr} (h : s.setReg o n = .next t)
   (hc : ∀ c, o = true → n = some c → SetterChange s.life s.cfg c) : Effect s i t := by
  cases o <;> cases n <;> simp [State.setReg] at h <;> subst h
  · exact .refuse _ _ (by simp)
  · exact .refuse _ _ (by simp)
  · exact .refuse _ _ (by simp)
  · exact .setter _ _ (hc _ rfl rfl)

theorem startPixel_effect {s t : State} {x y : Int} {ch : Channels} {i : Instr} (h : s.startPixel x y ch = .next t) : Effect s i t := by
  unfold State.startPixel at h
  cases hl : s.life.isUninit
  · simp only [hl, Bool.false_eq_true, if_false] at h
    split at h
    · injection h with h; subst h; exact .refuse _ _ (by simp)
    · injection h with h; subst h; exact .none _
    · rename_i hp
      split at h
      · injection h with h; subst h
        exact .started _ _ (by intro hu; rw [hu] at hl; cases hl) (.pixel x y _ ch _ hp ‹_›)
      · injection h with h; subst h; exact .none _
  · simp only [hl, if_true] at h
    injection h with h; subst h; exact .refuse _ _ (by simp)

theorem setTiming_effect {s t : State} {ok : Bool} {fps bushz} {i : Instr} (h : s.setTiming ok fps bushz = .next t) (hb : ok = true → s.cfg.bushz.toNat ≠ 0 → bushz.toNat ≠ 0) : Effect s i t := by
  unfold State.setTiming at h
  cases ok
  · simp at h; subst h; exact .refuse _ _ (by simp)
  · simp only [Bool.not_true, Bool.false_eq_true, if_false] at h
    cases hl : s.life.isUninit
    · simp only [hl, Bool.false_eq_true, if_false] at h
      split at h
      · injection h with h; subst h; exact .refuse _ _ (by simp)
      · injection h with h; subst h
        exact .timing _ _ _ _ (by intro hu; rw [hu] at hl; cases hl) ‹_› (hb rfl)
    · simp only [hl, if_true] at h
      injection h with h; subst h
      exact .timing0 _ _ _ (by cases h : s.life <;> simp_all [Life.isUninit])

/-- Everything a command can do. -/
theorem exec_effect {i : Instr} {s t : State} (h : exec i s = .next t) : Effect s i t := by
  cases i
  case init =>
    simp only [exec, execInit] at h
    cases hl : s.life.isUninit <;> simp only [hl, Bool.not_true, Bool.not_false, if_true, if_false, Bool.false_eq_true] at h
    · injection h with h; subst h; exact .refuse _ _ (by simp)
    · cases hg : geometryOk s.cfg <;> simp only [hg, Bool.not_true, Bool.not_false, if_true, if_false, Bool.false_eq_true] at h
      · injection h with h; subst h; exact .refuse _ _ (by simp)
      · cases hf : s.fitsMemory <;> simp only [hf, Bool.not_true, Bool.not_false, if_true, if_false, Bool.false_eq_true] at h
        · injection h with h; subst h; exact .refuse _ _ (by simp)
        · split at h
          · injection h with h; subst h; exact .refuse _ _ (by simp)
          · injection h with h; subst h; exact .init (by cases h : s.life <;> simp_all [Life.isUninit]) hg hf _ ‹_›
  case enable =>
    simp only [exec, execEnable] at h
    cases hl : s.life <;> simp only [hl, Life.isUninit, Life.isArmed, if_true, if_false, Bool.false_eq_true] at h
    · injection h with h; subst h; exact .refuse _ _ (by simp)
    · injection h with h; subst h; exact .enable hl
    · injection h with h; subst h; exact .refuse _ _ (by simp)
  case disable =>
    simp only [exec, execDisable] at h
    cases hl : s.life <;> simp only [hl, Life.isUninit, if_true, if_false, Bool.false_eq_true] at h
    · injection h with h; subst h; exact .refuse _ _ (by simp)
    · injection h with h; subst h; exact .disable (by simp [hl])
    · injection h with h; subst h; exact .disable (by simp [hl])
  case swap =>
    simp only [exec, execSwap] at h
    cases hl : s.life <;> cases hd : s.cfg.dbuf <;> simp only [hl, hd, Life.isUninit, if_true, if_false, Bool.false_eq_true, Bool.not_true, Bool.not_false] at h
    · injection h with h; subst h; exact .refuse _ _ (by simp)
    · injection h with h; subst h; exact .refuse _ _ (by simp)
    · injection h with h; subst h; exact .none _
    · injection h with h; subst h; exact .swapIdle _ hl hd
    · injection h with h; subst h; exact .none _
    · injection h with h; subst h; exact .swapArmed _ _ hl hd
  case clear sel =>
    simp only [exec, execClear] at h
    cases hl : s.life.isUninit <;> simp only [hl, if_true, if_false, Bool.false_eq_true] at h
    · split at h
      · injection h with h; subst h; exact .started _ _ (by intro hu; rw [hu] at hl; cases hl) (.clear sel ‹_›)
      · injection h with h; subst h; exact .none _
    · injection h with h; subst h; exact .refuse _ _ (by simp)
  case copy dir =>
    simp only [exec, execCopy] at h
    cases hl : s.life.isUninit <;> cases hd : s.cfg.dbuf <;> simp only [hl, hd, if_true, if_false, Bool.false_eq_true, Bool.not_true, Bool.not_false] at h
    · injection h with h; subst h; exact .none _
    · split at h
      · injection h with h; subst h; exact .started _ _ (by intro hu; rw [hu] at hl; cases hl) (.copy dir ‹_›)
      · injection h with h; subst h; exact .none _
    · injection h with h; subst h; exact .refuse _ _ (by simp)
    · injection h with h; subst h; exact .refuse _ _ (by simp)
  case setpixel => exact startPixel_effect h
  case setpixel565 => exact startPixel_effect h
  case getpixel => injection h with h; subst h; exact .resp _ _
  case setwidth v =>
    refine setReg_effect h ?_
    intro c ho hc
    have hu : s.life = .uninit := by revert ho; cases s.life <;> simp [Life.geometryOpen, Life.isUninit]
    simp only [legalIf, decide_eq_true_eq] at hc
    split at hc
    · injection hc with hc; subst hc
      constructor <;> simp_all [Life.isArmed] <;> omega
    · cases hc
  case setheight v =>
    refine setReg_effect h ?_
    intro c ho hc
    have hu : s.life = .uninit := by revert ho; cases s.life <;> simp [Life.geometryOpen, Life.isUninit]
    simp only [legalIf, decide_eq_true_eq] at hc
    split at hc
    · injection hc with hc; subst hc
      constructor <;> simp_all [Life.isArmed] <;> omega
    · cases hc
  case setmuxbits v =>
    refine setReg_effect h ?_
    intro c ho hc
    have hu : s.life = .uninit := by revert ho; cases s.life <;> simp [Life.geometryOpen, Life.isUninit]
    simp only [legalIf, decide_eq_true_eq] at hc
    split at hc
    · injection hc with hc; subst hc
      constructor <;> simp_all [Life.isArmed]
    · cases hc
  case setcolordepth v =>
    simp only [exec, execSetcolordepth] at h
    refine setReg_effect h ?_
    intro c ho hc
    have hu : s.life = .uninit := by revert ho; cases s.life <;> simp [Life.geometryOpen, Life.isUninit]
    injection hc with hc; subst hc
    constructor <;> simp_all [Life.isArmed, clampColordepth] <;> omega
  case setdbuf v =>
    refine setReg_effect h ?_
    intro c ho hc
    have hu : s.life = .uninit := by revert ho; cases s.life <;> simp [Life.geometryOpen, Life.isUninit]
    rw [Option.map_eq_some_iff] at hc
    obtain ⟨b, _, rfl⟩ := hc
    constructor <;> simp_all [Life.isArmed]
  case setpanels v =>
    refine setReg_effect h ?_
    intro c ho hc
    simp only [Life.translatorOpen, Bool.not_eq_true', Life.isArmed] at ho
    simp only [legalIf, decide_eq_true_eq] at hc
    split at hc
    · injection hc with hc; subst hc
      constructor <;> simp_all [Life.isArmed] <;> omega
    · cases hc
  case setrotate v =>
    refine setReg_effect h ?_
    intro c ho hc
    simp only [Life.translatorOpen, Bool.not_eq_true', Life.isArmed] at ho
    rw [Option.map_eq_some_iff] at hc
    obtain ⟨b, _, rfl⟩ := hc
    constructor <;> simp_all [Life.isArmed]
  case setflip v =>
    refine setReg_effect h ?_
    intro c ho hc
    simp only [Life.translatorOpen, Bool.not_eq_true', Life.isArmed] at ho
    rw [Option.map_eq_some_iff] at hc
    obtain ⟨b, _, rfl⟩ := hc
    constructor <;> simp_all [Life.isArmed]
  case setcolororder v =>
    refine setReg_effect h ?_
    intro c ho hc
    simp only [Life.translatorOpen, Bool.not_eq_true', Life.isArmed] at ho
    rw [Option.map_eq_some_iff] at hc
    obtain ⟨b, _, rfl⟩ := hc
    constructor <;> simp_all [Life.isArmed]
  case setscanpattern v =>
    refine setReg_effect h ?_
    intro c ho hc
    simp only [Life.translatorOpen, Bool.not_eq_true', Life.isArmed] at ho
    rw [Option.map_eq_some_iff] at hc
    obtain ⟨b, _, rfl⟩ := hc
    constructor <;> simp_all [Life.isArmed]
  case setblockpattern v =>
    refine setReg_effect h ?_
    intro c ho hc
    simp only [Life.translatorOpen, Bool.not_eq_true', Life.isArmed] at ho
    rw [Option.map_eq_some_iff] at hc
    obtain ⟨b, _, rfl⟩ := hc
    constructor <;> simp_all [Life.isArmed]
  case setcoloroffset v =>
    refine setReg_effect h ?_
    intro c ho hc
    simp only [Life.translatorOpen, Bool.not_eq_true', Life.isArmed] at ho
    simp only [legalIf, decide_eq_true_eq] at hc
    split at hc
    · injection hc with hc; subst hc
      constructor <;> simp_all [Life.isArmed]
    · cases hc
  case setbrightness v =>
    simp only [exec, execSetbrightness] at h
    refine setReg_effect h ?_
    intro c ho hc
    simp only [legalIf, decide_eq_true_eq] at hc
    split at hc
    · injection hc with hc; subst hc
      constructor <;> simp
    · cases hc
  case setfps v => exact setTiming_effect h (fun _ h => h)
  case setbushz v =>
    refine setTiming_effect h ?_
    intro ho _
    simp only [decide_eq_true_eq] at ho
    rw [BitVec.toNat_ofNat]; omega

/-- Everything a step can do: whose turn it was, and what that agent did. -/
theorem step_cases {s t : State} (h : step s = .next t) :
    (s.nextTurn = .reset ∧ t = s.takeTurn.resetEvent) ∨
    (s.nextTurn = .host ∧ s.hostOp ≠ .ready ∧ s.takeTurn.hostByteStep = .next t) ∨
    (s.nextTurn = .host ∧ s.hostOp = .ready ∧ s.port = [] ∧ t = s.takeTurn) ∨
    (s.nextTurn = .host ∧ s.hostOp = .ready ∧ ∃ w rest i, s.port = w :: rest ∧ decode w = .ok i ∧ s.command = some i ∧ exec i { s.takeTurn with port := rest } = .next t) ∨
    (s.nextTurn = .host ∧ s.hostOp = .ready ∧ ∃ w rest why, s.port = w :: rest ∧ decode w = .illegal why ∧ t = ({ s.takeTurn with port := rest } : State).refuse .illegal) ∨
    (s.nextTurn = .sched ∧ s.takeTurn.schedStep = .next t) ∨
    (s.nextTurn = .txeng ∧ s.takeTurn.txStep = .next t) := by
  unfold step at h
  cases hn : s.nextTurn <;> rw [hn] at h
  · have h : s.takeTurn.hostStep = .next t := h
    unfold State.hostStep at h
    split at h
    · rename_i ho
      have ho : s.hostOp = .ready := ho
      split at h
      · rename_i hp
        have hp : s.port = [] := hp
        injection h with h
        exact .inr (.inr (.inl ⟨rfl, ho, hp, h.symm⟩))
      · rename_i w rest hp
        have hp : s.port = w :: rest := hp
        unfold State.runWord at h
        split at h
        · rename_i i hd
          refine .inr (.inr (.inr (.inl ⟨rfl, ho, w, rest, i, hp, hd, ?_, h⟩)))
          simp only [State.command, hn, ho, hp, hd]
        · rename_i why hd
          injection h with h
          exact .inr (.inr (.inr (.inr (.inl ⟨rfl, ho, w, rest, why, hp, hd, h.symm⟩))))
    all_goals
      rename_i ho
      refine .inr (.inl ⟨rfl, ?_, h⟩)
      have ho : s.hostOp = _ := ho
      rw [ho]; simp
  · simp [State.turnStep] at h; simp [h]
  · simp [State.turnStep] at h; simp [h]
  · simp [State.turnStep] at h; simp [h]

/-- Everything the step of SCHED can do (43_scheduler.md R163 to R167). -/
theorem schedStep_cases {s t : State} (h : s.schedStep = .next t) : t = s ∨ ∃ pos, s.life = .armed pos ∧ s.tarmed = true ∧ s.tx.busy = false ∧ t = s.tick pos := by
  unfold State.schedStep at h
  split at h
  · split at h
    · split at h
      · cases h
      · injection h with h; rename_i a b c; exact .inr ⟨_, a, b, by simpa using c, h.symm⟩
    · injection h with h; exact .inl h.symm
  · injection h with h; exact .inl h.symm
  · injection h with h; exact .inl h.symm

/-- Everything the step of TXENG can do (43_scheduler.md R168). -/
theorem txStep_cases {s t : State} (h : s.txStep = .next t) : t = s ∨ 
   (s.tx.busy = true ∧ s.tx.pos.toNat < s.tx.len.toNat ∧ ∃ v, s.fb.read (s.tx.addr.toNat + s.tx.pos.toNat : Nat) = some v ∧ 
     t = ({ s with tx := { s.tx with pos := BitVec.ofNat 32 (s.tx.pos.toNat + 1) } } : State).emit (.txByte v)) ∨ 
   (s.tx.busy = true ∧ s.tx.pos = s.tx.len ∧ t = ({ s with tx := { s.tx with busy := false } } : State).emit .txDone) := by
  unfold State.txStep at h
  split at h
  · injection h with h; exact .inl h.symm
  · rename_i hb
    have hb : s.tx.busy = true := by simpa using hb
    split at h
    · rename_i hlt
      split at h
      · cases h
      · injection h with h; rename_i v hv; exact .inr (.inl ⟨hb, hlt, v, hv, h.symm⟩)
    · split at h
      · rename_i hp; injection h with h; exact .inr (.inr ⟨hb, hp, h.symm⟩)
      · injection h with h; exact .inl h.symm

@[simp] theorem tickCount_append (a b : List TraceEvent) : tickCount (a ++ b) = tickCount a + tickCount b := by
  induction a with
  | nil => simp [tickCount]
  | cons e a ih => cases e <;> simp only [List.cons_append, tickCount, ih] <;> omega

@[simp] theorem showLine_tickCount (s : State) (pos : RefreshPos) :
    tickCount (s.showLine pos).trace = tickCount s.trace := by
  unfold State.showLine State.applyMux
  by_cases h : pos.plane = 0#3
  · simp only [h, if_true]
    cases (State.muxEntry pos.row.toNat (State.gpoClr Config.oeMask s)).cmd <;> simp [tickCount]
  · simp only [h, if_false]
    simp [tickCount]

/-- A TICK is one more TICK of the trace. -/
@[simp] theorem tick_tickCount (s : State) (pos : RefreshPos) :
    tickCount (s.tick pos).trace = tickCount s.trace + 1 := by
  simp [tickCount]

/-- What holds in a state where a run is over (70_reset_and_hazards.md R233). -/
theorem over_cases {ticks : Option Nat} {s : State} (h : s.over ticks = true) :
    s.port = [] ∧ s.hostOp = .ready ∧ s.tx.busy = false ∧
      (s.life.isArmed = false ∨ ∃ n, ticks = some n ∧ n ≤ tickCount s.trace) := by
  unfold State.over ticksTaken at h
  cases ticks <;> simp_all

/-- GPO after steps 1 to 4 of a TICK (43_scheduler.md R164): `first` says whether the line is in its first bit-plane. -/
def shownGpo (plane0 : Bool) (cmd : MuxCmd) (mask g : BitVec 7) : BitVec 7 :=
  ((if plane0 then (match cmd with | .set => g &&& ~~~Config.oeMask ||| mask | .clr => g &&& ~~~Config.oeMask &&& ~~~mask) else g &&& ~~~Config.oeMask) ||| Config.latMask) &&& ~~~Config.latMask ||| Config.oeMask

theorem showLine_gpo (s : State) (pos : RefreshPos) : (s.showLine pos).gpo = shownGpo (decide (pos.plane = 0#3)) (s.muxEntry pos.row.toNat).cmd (s.muxEntry pos.row.toNat).mask s.gpo := by
  unfold State.showLine State.applyMux shownGpo
  have : (State.gpoClr Config.oeMask s).muxEntry pos.row.toNat = s.muxEntry pos.row.toNat := rfl
  simp only [this]
  by_cases h : pos.plane = 0#3
  · simp only [h, if_true, decide_true]
    cases (s.muxEntry pos.row.toNat).cmd <;> rfl
  · simp only [h, if_false, decide_false]; rfl

end Sys2Proof.Machine
end

