-- ==== Sys2Proof/Laws/Geometry.lean ====
section
/-! SUPPORT. What INIT's derivations can answer (40_config.md R82, R84, R85): no derived register truncates, no division
has a remainder, and a base tick count fits its register. -/

namespace Sys2Proof.Machine

/-- Every derived register under an accepted geometry and legal widths, and how the sizes are related. -/
theorem derivedOf_exact (c : ConfigRegs) (t : Nat) (hg : geometryOk c = true) (hw : c.width.toNat ≤ 32767) (hh : c.height.toNat ≤ 32767)
    (hc : 1 ≤ c.colordepth.toNat ∧ c.colordepth.toNat ≤ 8) :
    let d := derivedOf (deriveSizes c) t
    let z := deriveSizes c
    d.rowpattern.toNat = z.rowpattern ∧ d.w8.toNat = z.w8 ∧ d.nrows.toNat = z.nrows ∧ d.pcb.toNat = z.pcb ∧
    d.sbs.toNat = z.sbs ∧ d.bufsize.toNat = z.bufsize ∧ d.fbsize.toNat = z.fbsize ∧ d.nbuf.toNat = z.nbuf ∧
    (z.rowpattern = 8 ∨ z.rowpattern = 16 ∨ z.rowpattern = 32) ∧ z.rowpattern = 2 ^ c.muxbits.toNat ∧
    8 * z.w8 = c.width.toNat ∧ z.rowpattern * z.nrows = c.height.toNat ∧ z.pcb = z.nrows * z.w8 ∧ z.sbs = 3 * z.pcb ∧
    z.bufsize = z.rowpattern * z.sbs ∧ z.fbsize = c.colordepth.toNat * z.bufsize ∧ 1 ≤ z.nrows ∧ 1 ≤ z.w8 ∧ 1 ≤ z.pcb ∧
    z.w8 ≤ 4095 ∧ z.nrows ≤ 4095 ∧ 1 ≤ z.fbsize ∧ z.fbsize < 2^32 ∧ z.bufsize < 2 ^ 29 := by
  simp only [geometryOk, decide_eq_true_eq] at hg
  obtain ⟨hm, h8, hw8, hrp, hrp2, hb⟩ := hg
  intro d z
  have hrpv : z.rowpattern = 2 ^ c.muxbits.toNat := rfl
  have hrpc : z.rowpattern = 8 ∨ z.rowpattern = 16 ∨ z.rowpattern = 32 := by
    rw [hrpv]; rcases hm with h | h | h <;> rw [h] <;> decide
  have e1 : z.w8 = c.width.toNat / 8 := rfl
  have e2 : z.nrows = c.height.toNat / z.rowpattern := rfl
  have e3 : z.pcb = z.nrows * z.w8 := rfl
  have e4 : z.sbs = 3 * z.pcb := rfl
  have e5 : z.bufsize = c.height.toNat * c.width.toNat * 3 / 8 := rfl
  have e6 : z.fbsize = c.colordepth.toNat * z.bufsize := rfl
  have f1 : 8 * z.w8 = c.width.toNat := by omega
  rw [← hrpv] at hrp hrp2
  have f2 : z.rowpattern * z.nrows = c.height.toNat := by
    rw [e2]; have := Nat.div_add_mod c.height.toNat z.rowpattern; omega
  have f3 : z.bufsize = z.rowpattern * z.sbs := by
    rw [e5, ← f1, ← f2, e4, e3]
    rw [show z.rowpattern * z.nrows * (8 * z.w8) * 3 = (z.rowpattern * (3 * (z.nrows * z.w8))) * 8 by ring]
    omega
  have g1 : 1 ≤ z.nrows := by
    rcases Nat.eq_zero_or_pos z.nrows with h | h
    · rw [h] at f2; omega
    · exact h
  have g2 : 1 ≤ z.w8 := by omega
  have g3 : z.w8 ≤ 4095 := by omega
  have g4 : z.nrows ≤ 4095 := by rcases hrpc with h | h | h <;> rw [h] at f2 <;> omega
  have g5 : 1 ≤ z.pcb := by rw [e3]; exact Nat.mul_pos g1 g2
  have g6 : z.pcb ≤ 4095 * 4095 := by rw [e3]; exact Nat.mul_le_mul g4 g3
  have g7 : z.bufsize ≤ 32767 * 32767 * 3 / 8 := by
    rw [e5]
    have := Nat.mul_le_mul hh hw
    omega
  have g8 : z.fbsize ≤ 8 * (32767 * 32767 * 3 / 8) := by rw [e6]; exact Nat.mul_le_mul hc.2 g7
  have g9 : 1 ≤ z.bufsize := by rw [f3, e4]; rcases hrpc with h | h | h <;> rw [h] <;> omega
  have g10 : 1 ≤ z.fbsize := by rw [e6]; exact Nat.mul_pos hc.1 g9
  have gn : z.nbuf ≤ 2 := by show (if c.dbuf then 2 else 1) ≤ 2; split <;> omega
  refine ⟨?_, ?_, ?_, ?_, ?_, ?_, ?_, ?_, hrpc, hrpv, f1, f2, e3, e4, f3, e6, g1, g2, g5, g3, g4, g10, by omega, by omega⟩
  · show (BitVec.ofNat 6 z.rowpattern).toNat = _
    rcases hrpc with h | h | h <;> rw [h] <;> rfl
  · show (BitVec.ofNat 13 z.w8).toNat = _
    rw [BitVec.toNat_ofNat]; omega
  · show (BitVec.ofNat 13 z.nrows).toNat = _
    rw [BitVec.toNat_ofNat]; omega
  · show (BitVec.ofNat 32 z.pcb).toNat = _
    rw [BitVec.toNat_ofNat]; omega
  · show (BitVec.ofNat 32 z.sbs).toNat = _
    rw [BitVec.toNat_ofNat]; omega
  · show (BitVec.ofNat 32 z.bufsize).toNat = _
    rw [BitVec.toNat_ofNat]; omega
  · show (BitVec.ofNat 32 z.fbsize).toNat = _
    rw [BitVec.toNat_ofNat]; omega
  · show (BitVec.ofNat 2 z.nbuf).toNat = _
    rw [BitVec.toNat_ofNat]; omega

/-- A base tick count `baseticks()` answers fits TCOUNT (R85). -/
theorem baseticks_lt {a b c d e f t : Nat} (h : baseticks a b c d e f = some t) : t < 2 ^ 32 := by
  unfold baseticks at h
  simp only at h
  split at h
  · cases h
  · rename_i hn
    injection h with h
    rw [h] at hn
    have : t * 1 ≤ t * 2 ^ (d - 1) := Nat.mul_le_mul_left _ (Nat.one_le_two_pow)
    have e : Config.timerBits = 32 := rfl
    rw [e] at hn
    omega

end Sys2Proof.Machine
end

