-- ==== Sys2Proof/Laws/PerInstr.lean ====
section
/-! SUPPORT. The family EncodedRow: the word of every command, well-formed or not, is a word of the command's own row of
spec/opcode_table.json. -/

namespace Sys2Proof.Laws.EncodedRow

/-- The mask and match of a command's row (30_encoding.md R61, R63, R64). -/
def rowOf : Instr → Word × Word
  | .init => (0xFFFFFFFFFFFFFFFF#64, 0x0100000000000000#64)
  | .enable => (0xFFFFFFFFFFFFFFFF#64, 0x0200000000000000#64)
  | .disable => (0xFFFFFFFFFFFFFFFF#64, 0x0300000000000000#64)
  | .swap => (0xFFFFFFFFFFFFFFFF#64, 0x0400000000000000#64)
  | .clear _ => (0xFFFFFFFFFFFFFFFE#64, 0x0500000000000000#64)
  | .copy _ => (0xFFFFFFFFFFFFFFFE#64, 0x0600000000000000#64)
  | .setpixel _ _ _ _ _ => (0xFF00000000000000#64, 0x0800000000000000#64)
  | .setpixel565 _ _ _ => (0xFF000000000000FF#64, 0x0900000000000000#64)
  | .getpixel _ _ => (0xFF00000000FFFFFF#64, 0x0A00000000000000#64)
  | .setwidth _ => (0xFFFFFFFF00000000#64, 0x1001000000000000#64)
  | .setheight _ => (0xFFFFFFFF00000000#64, 0x1002000000000000#64)
  | .setmuxbits _ => (0xFFFFFFFF00000000#64, 0x1003000000000000#64)
  | .setcolordepth _ => (0xFFFFFFFF00000000#64, 0x1004000000000000#64)
  | .setdbuf _ => (0xFFFFFFFF00000000#64, 0x1005000000000000#64)
  | .setpanels _ => (0xFFFFFFFF00000000#64, 0x1006000000000000#64)
  | .setrotate _ => (0xFFFFFFFF00000000#64, 0x1007000000000000#64)
  | .setflip _ => (0xFFFFFFFF00000000#64, 0x1008000000000000#64)
  | .setcolororder _ => (0xFFFFFFFF00000000#64, 0x1009000000000000#64)
  | .setscanpattern _ => (0xFFFFFFFF00000000#64, 0x100A000000000000#64)
  | .setblockpattern _ => (0xFFFFFFFF00000000#64, 0x100B000000000000#64)
  | .setcoloroffset _ => (0xFFFFFFFF00000000#64, 0x100C000000000000#64)
  | .setbrightness _ => (0xFFFFFFFF00000000#64, 0x100D000000000000#64)
  | .setfps _ => (0xFFFFFFFF00000000#64, 0x100E000000000000#64)
  | .setbushz _ => (0xFFFFFFFF00000000#64, 0x100F000000000000#64)

/-- The word of a command is of its own row, and the row is of the table. -/
def Statement (i : Instr) : Prop := encode i &&& (rowOf i).1 = (rowOf i).2 ∧ rowOf i ∈ opcodeRows

theorem rowOf_mem (i : Instr) : rowOf i ∈ opcodeRows := by
  cases i <;> simp [rowOf, opcodeRows]

theorem append_and {n m : Nat} (a c : BitVec n) (b d : BitVec m) : (a ++ b) &&& (c ++ d) = (a &&& c) ++ (b &&& d) := by
  ext i hi
  simp only [BitVec.getElem_and, BitVec.getElem_append]
  split <;> rfl

theorem formatW (reg : BitVec 8) (v : BitVec 32) :
    encodeW reg v &&& 0xFFFFFFFF00000000#64 = 0x10#8 ++ reg ++ 0#16 ++ 0#32 := by
  have h : (0xFFFFFFFF00000000#64 : Word) = BitVec.allOnes 32 ++ 0#32 := by decide
  unfold encodeW
  rw [h]
  erw [append_and]
  simp only [BitVec.and_zero, BitVec.and_allOnes]

theorem formatP (o : BitVec 8) (x y : BitVec 16) (r g b : BitVec 8) :
    encodeP o x y r g b &&& 0xFF00000000000000#64 = o ++ 0#56 := by
  have h : (0xFF00000000000000#64 : Word) = BitVec.allOnes 8 ++ 0#16 ++ 0#16 ++ 0#8 ++ 0#8 ++ 0#8 := by decide
  unfold encodeP
  rw [h]
  erw [append_and, append_and, append_and, append_and, append_and]
  simp only [BitVec.and_zero, BitVec.and_allOnes]
  revert o; decide

theorem formatH (o : BitVec 8) (x y c : BitVec 16) :
    encodeH o x y c &&& 0xFF000000000000FF#64 = o ++ 0#56 := by
  have h : (0xFF000000000000FF#64 : Word) = BitVec.allOnes 8 ++ 0#16 ++ 0#16 ++ 0#16 ++ BitVec.allOnes 8 := by decide
  unfold encodeH
  rw [h]
  erw [append_and, append_and, append_and, append_and]
  simp only [BitVec.and_zero, BitVec.and_allOnes]
  revert o; decide

theorem formatG (o : BitVec 8) (x y : BitVec 16) :
    encodeG o x y &&& 0xFF00000000FFFFFF#64 = o ++ 0#56 := by
  have h : (0xFF00000000FFFFFF#64 : Word) = BitVec.allOnes 8 ++ 0#16 ++ 0#16 ++ BitVec.allOnes 24 := by decide
  unfold encodeG
  rw [h]
  erw [append_and, append_and, append_and]
  simp only [BitVec.and_zero, BitVec.and_allOnes]
  revert o; decide

theorem init : Statement .init := ⟨by decide, rowOf_mem _⟩
theorem enable : Statement .enable := ⟨by decide, rowOf_mem _⟩
theorem disable : Statement .disable := ⟨by decide, rowOf_mem _⟩
theorem swap : Statement .swap := ⟨by decide, rowOf_mem _⟩
theorem clear (sel : BufferRole) : Statement (.clear sel) := by cases sel <;> exact ⟨by decide, rowOf_mem _⟩
theorem copy (dir : CopyDir) : Statement (.copy dir) := by cases dir <;> exact ⟨by decide, rowOf_mem _⟩
theorem setpixel (x y : Int) (r g b : Nat) : Statement (.setpixel x y r g b) := ⟨formatP _ _ _ _ _ _, rowOf_mem _⟩
theorem setpixel565 (x y : Int) (c : Nat) : Statement (.setpixel565 x y c) := ⟨formatH _ _ _ _, rowOf_mem _⟩
theorem getpixel (x y : Int) : Statement (.getpixel x y) := ⟨formatG _ _ _, rowOf_mem _⟩
theorem setwidth (v : Nat) : Statement (.setwidth v) := ⟨formatW _ _, rowOf_mem _⟩
theorem setheight (v : Nat) : Statement (.setheight v) := ⟨formatW _ _, rowOf_mem _⟩
theorem setmuxbits (v : Nat) : Statement (.setmuxbits v) := ⟨formatW _ _, rowOf_mem _⟩
theorem setcolordepth (v : Nat) : Statement (.setcolordepth v) := ⟨formatW _ _, rowOf_mem _⟩
theorem setdbuf (v : Nat) : Statement (.setdbuf v) := ⟨formatW _ _, rowOf_mem _⟩
theorem setpanels (v : Nat) : Statement (.setpanels v) := ⟨formatW _ _, rowOf_mem _⟩
theorem setrotate (v : Nat) : Statement (.setrotate v) := ⟨formatW _ _, rowOf_mem _⟩
theorem setflip (v : Nat) : Statement (.setflip v) := ⟨formatW _ _, rowOf_mem _⟩
theorem setcolororder (v : Nat) : Statement (.setcolororder v) := ⟨formatW _ _, rowOf_mem _⟩
theorem setscanpattern (v : Nat) : Statement (.setscanpattern v) := ⟨formatW _ _, rowOf_mem _⟩
theorem setblockpattern (v : Nat) : Statement (.setblockpattern v) := ⟨formatW _ _, rowOf_mem _⟩
theorem setcoloroffset (v : Nat) : Statement (.setcoloroffset v) := ⟨formatW _ _, rowOf_mem _⟩
theorem setbrightness (v : Nat) : Statement (.setbrightness v) := ⟨formatW _ _, rowOf_mem _⟩
theorem setfps (v : Nat) : Statement (.setfps v) := ⟨formatW _ _, rowOf_mem _⟩
theorem setbushz (v : Nat) : Statement (.setbushz v) := ⟨formatW _ _, rowOf_mem _⟩

end Sys2Proof.Laws.EncodedRow
end

