-- ==== Sys2Proof/Laws/Translator.lean ====
section
/-! SUPPORT. Once over, everything the last steps of the translator do (41_translator.md R119 to R132): a scan group's
bits by distance from ROWOFF, and the block remap as a bijection of the panel. -/

namespace Sys2Proof.Machine

/-! ## Numbers in mixed radix -/

theorem unit_lt {w n a k : Nat} (ha : a < w) (hk : k < n) : k * w + a < n * w := by
  have := Nat.mul_le_mul_right w (show k + 1 ≤ n from hk)
  rw [Nat.add_mul] at this; omega

theorem unit_inj {w a a' k k' : Nat} (ha : a < w) (ha' : a' < w) (h : k * w + a = k' * w + a') : a = a' ∧ k = k' := by
  have h0 : 0 < w := by omega
  have h1 : (k * w + a) / w = k := by rw [Nat.mul_comm, Nat.mul_add_div h0, Nat.div_eq_of_lt ha]; rfl
  have h2 : (k' * w + a') / w = k' := by rw [Nat.mul_comm, Nat.mul_add_div h0, Nat.div_eq_of_lt ha']; rfl
  have h3 : k = k' := by rw [← h1, ← h2, h]
  subst h3
  omega

/-! ## Steps 8 to 11 -/

/-- The distance below ROWOFF and the bit at which a pattern puts column 8*xb+b of the k-th row of a scan group, `w8`
bytes wide. -/
def laneOf (pat : ScanPattern) (w8 k xb b : Nat) : Nat × Nat :=
  let u := (w8 - 1 - xb) + w8 * (k / 2)
  match pat with
  | .zigzag => (2 * u + k % 2, b)
  | .zagzig => (2 * u + (1 - k % 2), b)
  | .zaggiz => (2 * u + (1 - k % 2), if k % 2 = 0 then 7 - b else b)
  | .zzagg => (2 * u + b / 4, if k % 2 = 0 then b % 4 else b % 4 + 4)
  | .zziagg => (2 * u + b / 4, if k % 2 = 0 then b % 4 + 4 else b % 4)
  | .line => (k * w8 + (w8 - 1 - xb), b)
  | .wzagzig => (k * w8 + (w8 - 1 - xb), b)
  | .vzag => (k * w8 + (w8 - 1 - xb), b)
  | .wzagzig2 => (k * w8 + (w8 - 1 - xb), b)

/-- A row is in the upper half of its period exactly when its scan-group index is even (R125). -/
theorem upper_iff {rp y : Nat} (h : 0 < rp) : y % (2 * rp) < rp ↔ y / rp % 2 = 0 := by
  have h1 : y % (2 * rp) = y % rp + rp * (y / rp % 2) := by rw [Nat.mul_comm 2 rp, Nat.mod_mul]
  have h2 := Nat.mod_lt y h
  rcases Nat.mod_two_eq_zero_or_one (y / rp) with h3 | h3 <;> rw [h1, h3] <;> simp <;> omega

/-- Steps 8 to 11 in one formula, for every pattern (R120, R123 to R132). -/
theorem placed_eq (s : State) (x y : Nat) (hrp : 0 < s.der.rowpattern.toNat) (hx : x / 8 < s.der.w8.toNat) :
    (if pairedPattern s.cfg.scanpattern then
      pairCorrect s.cfg.scanpattern (s.upperHalf y) (s.pairBase x y) (x % 8)
    else .place (s.lineOffset x y) (x % 8)) =
    .place (((s.rowOff y).toNat : Int) - ((laneOf s.cfg.scanpattern s.der.w8.toNat (y / s.der.rowpattern.toNat) (x / 8) (x % 8)).1 : Nat))
      (laneOf s.cfg.scanpattern s.der.w8.toNat (y / s.der.rowpattern.toNat) (x / 8) (x % 8)).2 := by
  have hu := upper_iff (y := y) hrp
  have hb : x % 8 < 8 := Nat.mod_lt _ (by decide)
  unfold State.upperHalf State.pairBase State.lineOffset
  generalize s.der.w8.toNat = w at *
  generalize hk : y / s.der.rowpattern.toNat = k at *
  generalize x / 8 = xb at *
  generalize x % 8 = b at *
  generalize s.rowOff y = ro
  have hw : ((w - 1 - xb : Nat) : Int) = (w : Int) - 1 - xb := by omega
  have hk2 := Nat.mod_two_eq_zero_or_one k
  cases s.cfg.scanpattern <;> simp only [pairedPattern, pairCorrect, laneOf, if_true, if_false, hu, Bool.false_eq_true]
  all_goals rcases hk2 with h | h <;> rcases (by omega : b / 4 = 0 ∧ b ≤ 3 ∨ b / 4 = 1 ∧ ¬ b ≤ 3) with ⟨h4, h3⟩ | ⟨h4, h3⟩
  all_goals simp -failIfUnchanged only [h, h3, h4, decide_true, decide_false, if_true, if_false, Nat.one_ne_zero,
    Bool.false_eq_true]
  all_goals (congr 1 <;> push_cast <;> (try rw [hw]) <;> first | omega | ring_nf)

/-- A scan group of `n` rows of `w8` bytes holds every place (R124: `n` is even for the paired patterns). -/
theorem lane_range (pat : ScanPattern) {w n k xb b : Nat} (hx : xb < w) (hk : k < n) (hb : b < 8)
    (he : pairedPattern pat = true → n % 2 = 0) :
    (laneOf pat w k xb b).1 < n * w ∧ (laneOf pat w k xb b).2 < 8 := by
  have h1 : k * w + (w - 1 - xb) < n * w := unit_lt (by omega) hk
  have h2 : n % 2 = 0 → 2 * ((w - 1 - xb) + w * (k / 2)) + 2 ≤ n * w := by
    intro h
    have h3 := unit_lt (w := w) (a := w - 1 - xb) (n := n / 2) (k := k / 2) (by omega) (by omega)
    rw [Nat.mul_comm w]
    have h4 : n * w = 2 * (n / 2 * w) := by rw [← Nat.mul_assoc]; congr 1; omega
    omega
  cases pat <;> simp only [laneOf, pairedPattern] at * <;> simp only [forall_const, Bool.false_eq_true, false_imp_iff] at he
  all_goals first
    | (constructor <;> omega)
    | (have h5 := h2 he; constructor <;> (try split) <;> omega)

/-- Two places of a scan group share no bit. -/
theorem lane_inj (pat : ScanPattern) {w k xb b k' xb' b' : Nat} (hx : xb < w) (hb : b < 8)
    (hx' : xb' < w) (hb' : b' < 8) (h : laneOf pat w k xb b = laneOf pat w k' xb' b') : k = k' ∧ xb = xb' ∧ b = b' := by
  have h1 : k * w + (w - 1 - xb) = k' * w + (w - 1 - xb') → xb = xb' ∧ k = k' := by
    intro h
    have := unit_inj (by omega) (by omega) h
    omega
  have h2 : (w - 1 - xb) + w * (k / 2) = (w - 1 - xb') + w * (k' / 2) → xb = xb' ∧ k / 2 = k' / 2 := by
    intro h
    rw [Nat.mul_comm w, Nat.mul_comm w] at h
    have := unit_inj (w := w) (a := w - 1 - xb) (a' := w - 1 - xb') (k := k / 2) (k' := k' / 2) (by omega) (by omega) (by omega)
    omega
  revert h
  generalize hu : (w - 1 - xb) + w * (k / 2) = u at *
  generalize hu' : (w - 1 - xb') + w * (k' / 2) = u' at *
  cases pat <;> simp only [laneOf, hu, hu', Prod.mk.injEq] <;> rintro ⟨e1, e2⟩
  all_goals first
    | (have := h1 e1; omega)
    | (have h3 : u = u' := by (try split at e2) <;> (try split at e2) <;> omega
       have := h2 h3
       (try split at e2) <;> (try split at e2) <;> omega)

/-- Every bit of a scan group's lane is the place of a column of one of its rows. -/
theorem lane_onto (pat : ScanPattern) {w n t b' : Nat} (ht : t < n * w) (hb : b' < 8)
    (he : pairedPattern pat = true → n % 2 = 0) :
    ∃ k xb b, k < n ∧ xb < w ∧ b < 8 ∧ laneOf pat w k xb b = (t, b') := by
  have hw : 0 < w := by
    rcases Nat.eq_zero_or_pos w with h | h
    · subst h; simp at ht
    · exact h
  have hq : ∀ m u, u < m * w → u / w < m ∧ (w - 1 - (w - 1 - u % w)) + w * (u / w) = u ∧ w - 1 - u % w < w := by
    intro m u hu
    have := Nat.mod_lt u hw
    have h2 := Nat.div_add_mod u w
    refine ⟨Nat.div_lt_of_lt_mul (by rwa [Nat.mul_comm]), by omega, by omega⟩
  have hl : ∃ k xb, k < n ∧ xb < w ∧ k * w + (w - 1 - xb) = t := by
    obtain ⟨a, b, c⟩ := hq n t ht
    exact ⟨t / w, w - 1 - t % w, a, c, by rw [Nat.mul_comm (t / w)]; omega⟩
  have hp : n % 2 = 0 → ∃ m xb, m < n / 2 ∧ xb < w ∧ (w - 1 - xb) + w * m = t / 2 := by
    intro h
    have h4 : n * w = 2 * (n / 2 * w) := by rw [← Nat.mul_assoc]; congr 1; omega
    obtain ⟨a, b, c⟩ := hq (n / 2) (t / 2) (by omega)
    exact ⟨t / 2 / w, w - 1 - t / 2 % w, a, c, b⟩
  have two : ∀ m i, i < 2 → (2 * m + i) / 2 = m ∧ (2 * m + i) % 2 = i := by intro m i hi; omega
  cases pat <;> simp only [pairedPattern, forall_const, Bool.false_eq_true, false_imp_iff] at he
  case line => obtain ⟨k, xb, h1, h2, h3⟩ := hl; exact ⟨k, xb, b', h1, h2, hb, by simp [laneOf, h3]⟩
  case wzagzig => obtain ⟨k, xb, h1, h2, h3⟩ := hl; exact ⟨k, xb, b', h1, h2, hb, by simp [laneOf, h3]⟩
  case vzag => obtain ⟨k, xb, h1, h2, h3⟩ := hl; exact ⟨k, xb, b', h1, h2, hb, by simp [laneOf, h3]⟩
  case wzagzig2 => obtain ⟨k, xb, h1, h2, h3⟩ := hl; exact ⟨k, xb, b', h1, h2, hb, by simp [laneOf, h3]⟩
  all_goals obtain ⟨m, xb, h1, h2, h3⟩ := hp he
  all_goals clear hl hp hq
  case zigzag =>
    refine ⟨2 * m + t % 2, xb, b', by omega, h2, hb, ?_⟩
    rw [laneOf]
    simp only [(two m (t % 2) (by omega)).1, (two m (t % 2) (by omega)).2, h3, Prod.mk.injEq, and_true]
    omega
  case zagzig =>
    refine ⟨2 * m + (1 - t % 2), xb, b', by omega, h2, hb, ?_⟩
    rw [laneOf]
    simp only [(two m (1 - t % 2) (by omega)).1, (two m (1 - t % 2) (by omega)).2, h3, Prod.mk.injEq, and_true]
    omega
  case zaggiz =>
    refine ⟨2 * m + (1 - t % 2), xb, if 1 - t % 2 = 0 then 7 - b' else b', by omega, h2, by split <;> omega, ?_⟩
    rw [laneOf]
    simp only [(two m (1 - t % 2) (by omega)).1, (two m (1 - t % 2) (by omega)).2, h3, Prod.mk.injEq]
    clear two
    refine ⟨by omega, ?_⟩
    split <;> omega
  case zzagg =>
    refine ⟨2 * m + b' / 4, xb, 4 * (t % 2) + b' % 4, by omega, h2, by omega, ?_⟩
    rw [laneOf]
    simp only [(two m (b' / 4) (by omega)).1, (two m (b' / 4) (by omega)).2, h3, Prod.mk.injEq]
    clear two
    refine ⟨by omega, ?_⟩
    split <;> omega
  case zziagg =>
    refine ⟨2 * m + (1 - b' / 4), xb, 4 * (t % 2) + b' % 4, by omega, h2, by omega, ?_⟩
    rw [laneOf]
    simp only [(two m (1 - b' / 4) (by omega)).1, (two m (1 - b' / 4) (by omega)).2, h3, Prod.mk.injEq]
    clear two
    refine ⟨by omega, ?_⟩
    split <;> omega

/-! ## Step 7 -/

/-- A panel that BLOCKREMAP tiles exactly: `w` columns in panels of `pw`, a multiple of 16, and `h` rows in blocks of
`hb`. -/
structure Tiled (w h pw hb : Nat) : Prop where
  pw0 : 0 < pw
  p16 : pw % 16 = 0
  dvd : ∃ n, w = n * pw
  hb0 : 0 < hb
  hdvd : ∃ m, h = m * hb

theorem block_split {x pw : Nat} (hpw : 0 < pw) (h16 : pw % 16 = 0) :
    x % pw / 16 < pw / 16 ∧ x = x / pw * pw + (x % pw / 16 * 16 + x % pw % 16) ∧ x % pw % 16 < 16 := by
  have h1 := Nat.mod_lt x hpw
  have h2 := Nat.div_add_mod x pw
  rw [Nat.mul_comm] at h2
  omega

/-- BLOCKREMAP of a coordinate inside the panel (R121, R122). -/
theorem blockRemap_eq (p : BlockScan) {w h rp n x y : Nat} (H : Tiled w h (w / n) (blockHeight p w h rp n))
    (hx : x < w) (hy : y < h) :
    ∃ (hc : x % (w / n) / 16 < w / n / 16) (hr : y / blockHeight p w h rp n < h / blockHeight p w h rp n),
    blockRemap p w h rp n x y =
      (let b := Config.blockPerm p w h rp n (x / (w / n)) (w / n / 16) (h / blockHeight p w h rp n)
         (⟨x % (w / n) / 16, hc⟩, ⟨y / blockHeight p w h rp n, hr⟩)
       (x / (w / n) * (w / n) + b.1.val * 16 + x % (w / n) % 16,
         b.2.val * blockHeight p w h rp n + y % blockHeight p w h rp n)) := by
  have h1 := block_split (x := x) H.pw0 H.p16
  have h2 : y / blockHeight p w h rp n < h / blockHeight p w h rp n := by
    obtain ⟨m, hm⟩ := H.hdvd
    have hb := H.hb0
    generalize blockHeight p w h rp n = hb at *
    rw [hm, Nat.mul_div_cancel _ ‹_›]
    exact Nat.div_lt_of_lt_mul (by rw [Nat.mul_comm]; omega)
  refine ⟨h1.1, h2, ?_⟩
  unfold blockRemap
  simp only [h1.1, h2, and_self, dif_pos]

/-- The coordinate at given block and place inside it. -/
theorem block_join {w h pw hb P C R r q : Nat} (H : Tiled w h pw hb) (hP : P < w / pw) (hC : C < pw / 16) (hr : r < 16)
    (hR : R < h / hb) (hq : q < hb) :
    P * pw + C * 16 + r < w ∧ R * hb + q < h ∧ (P * pw + C * 16 + r) / pw = P ∧ (P * pw + C * 16 + r) % pw / 16 = C ∧
    (P * pw + C * 16 + r) % pw % 16 = r ∧ (R * hb + q) / hb = R ∧ (R * hb + q) % hb = q := by
  obtain ⟨n, hn⟩ := H.dvd
  obtain ⟨m, hm⟩ := H.hdvd
  have h0 := H.pw0
  have h1 := H.hb0
  have h16 := H.p16
  rw [hn, Nat.mul_div_cancel _ h0] at hP
  rw [hm, Nat.mul_div_cancel _ h1] at hR
  have hlt : C * 16 + r < pw := by omega
  have e : P * pw + C * 16 + r = pw * P + (C * 16 + r) := by rw [Nat.mul_comm]; omega
  have e2 : R * hb + q = hb * R + q := by rw [Nat.mul_comm]
  refine ⟨?_, ?_, ?_, ?_, ?_, ?_, ?_⟩
  · rw [hn, Nat.add_assoc]; exact unit_lt hlt hP
  · rw [hm]; exact unit_lt hq hR
  · rw [e, Nat.mul_add_div h0, Nat.div_eq_of_lt hlt]; rfl
  · rw [e, Nat.mul_add_mod, Nat.mod_eq_of_lt hlt]; omega
  · rw [e, Nat.mul_add_mod, Nat.mod_eq_of_lt hlt]; omega
  · rw [e2, Nat.mul_add_div h1, Nat.div_eq_of_lt hq]; rfl
  · rw [e2, Nat.mul_add_mod, Nat.mod_eq_of_lt hq]

/-- BLOCKREMAP keeps the panel, joins no two coordinates and reaches every one (R122), whatever the open permutation. -/
theorem blockRemap_bijective (p : BlockScan) {w h rp n : Nat} (H : Tiled w h (w / n) (blockHeight p w h rp n)) :
    (∀ x y, x < w → y < h → (blockRemap p w h rp n x y).1 < w ∧ (blockRemap p w h rp n x y).2 < h) ∧
    (∀ x y x' y', x < w → y < h → x' < w → y' < h → blockRemap p w h rp n x y = blockRemap p w h rp n x' y' →
      x = x' ∧ y = y') ∧
    (∀ u v, u < w → v < h → ∃ x y, x < w ∧ y < h ∧ blockRemap p w h rp n x y = (u, v)) := by
  have key : ∀ x y, x < w → y < h → x / (w / n) < w / (w / n) := by
    intro x y hx hy
    obtain ⟨m, hm⟩ := H.dvd
    have h0 := H.pw0
    generalize w / n = pw at *
    rw [hm, Nat.mul_div_cancel _ h0]
    exact Nat.div_lt_of_lt_mul (by rw [Nat.mul_comm]; omega)
  refine ⟨?_, ?_, ?_⟩
  · intro x y hx hy
    obtain ⟨hc, hr, e⟩ := blockRemap_eq p H hx hy
    rw [e]
    have := block_join H (key x y hx hy) (Config.blockPerm p w h rp n (x / (w / n)) (w / n / 16) (h / blockHeight p w h rp n)
         (⟨x % (w / n) / 16, hc⟩, ⟨y / blockHeight p w h rp n, hr⟩)).1.isLt (block_split (x := x) H.pw0 H.p16).2.2
         (Config.blockPerm p w h rp n (x / (w / n)) (w / n / 16) (h / blockHeight p w h rp n)
         (⟨x % (w / n) / 16, hc⟩, ⟨y / blockHeight p w h rp n, hr⟩)).2.isLt (Nat.mod_lt y H.hb0)
    exact ⟨this.1, this.2.1⟩
  · intro x y x' y' hx hy hx' hy' he
    obtain ⟨hc, hr, e⟩ := blockRemap_eq p H hx hy
    obtain ⟨hc', hr', e'⟩ := blockRemap_eq p H hx' hy'
    rw [e, e'] at he
    have s1 := block_join H (key x y hx hy) (Config.blockPerm p w h rp n (x / (w / n)) (w / n / 16) (h / blockHeight p w h rp n)
         (⟨x % (w / n) / 16, hc⟩, ⟨y / blockHeight p w h rp n, hr⟩)).1.isLt (block_split (x := x) H.pw0 H.p16).2.2
         (Config.blockPerm p w h rp n (x / (w / n)) (w / n / 16) (h / blockHeight p w h rp n)
         (⟨x % (w / n) / 16, hc⟩, ⟨y / blockHeight p w h rp n, hr⟩)).2.isLt (Nat.mod_lt y H.hb0)
    have s2 := block_join H (key x' y' hx' hy') (Config.blockPerm p w h rp n (x' / (w / n)) (w / n / 16) (h / blockHeight p w h rp n)
         (⟨x' % (w / n) / 16, hc'⟩, ⟨y' / blockHeight p w h rp n, hr'⟩)).1.isLt (block_split (x := x') H.pw0 H.p16).2.2
         (Config.blockPerm p w h rp n (x' / (w / n)) (w / n / 16) (h / blockHeight p w h rp n)
         (⟨x' % (w / n) / 16, hc'⟩, ⟨y' / blockHeight p w h rp n, hr'⟩)).2.isLt (Nat.mod_lt y' H.hb0)
    simp only [Prod.mk.injEq] at he
    rw [he.1, he.2] at s1
    obtain ⟨_, _, p1, c1, r1, R1, q1⟩ := s1
    obtain ⟨_, _, p2, c2, r2, R2, q2⟩ := s2
    have eP := p1.symm.trans p2
    have eC := c1.symm.trans c2
    have er := r1.symm.trans r2
    have eR := R1.symm.trans R2
    have eq := q1.symm.trans q2
    have hb : Config.blockPerm p w h rp n (x / (w / n)) (w / n / 16) (h / blockHeight p w h rp n)
         (⟨x % (w / n) / 16, hc⟩, ⟨y / blockHeight p w h rp n, hr⟩) =
        Config.blockPerm p w h rp n (x' / (w / n)) (w / n / 16) (h / blockHeight p w h rp n)
         (⟨x' % (w / n) / 16, hc'⟩, ⟨y' / blockHeight p w h rp n, hr'⟩) := Prod.ext (Fin.ext eC) (Fin.ext eR)
    rw [eP] at hb
    have hb2 := (Config.blockPerm p w h rp n (x' / (w / n)) (w / n / 16) (h / blockHeight p w h rp n)).injective hb
    simp only [Prod.mk.injEq, Fin.mk.injEq] at hb2
    have a1 := (block_split (x := x) H.pw0 H.p16).2.1
    have a2 := (block_split (x := x') H.pw0 H.p16).2.1
    constructor
    · rw [a1, a2, eP, hb2.1, er]
    · rw [← Nat.div_add_mod y (blockHeight p w h rp n), ← Nat.div_add_mod y' (blockHeight p w h rp n), hb2.2, eq]
  · intro u v hu hv
    obtain ⟨hc, hr, _⟩ := blockRemap_eq p H hu hv
    let c := (Config.blockPerm p w h rp n (u / (w / n)) (w / n / 16) (h / blockHeight p w h rp n)).symm
      (⟨u % (w / n) / 16, hc⟩, ⟨v / blockHeight p w h rp n, hr⟩)
    have s := block_join H (key u v hu hv) c.1.isLt (block_split (x := u) H.pw0 H.p16).2.2 c.2.isLt (Nat.mod_lt v H.hb0)
    refine ⟨_, _, s.1, s.2.1, ?_⟩
    obtain ⟨hc', hr', e⟩ := blockRemap_eq p H s.1 s.2.1
    rw [e]
    obtain ⟨_, _, p1, c1, r1, R1, q1⟩ := s
    have : Config.blockPerm p w h rp n (u / (w / n)) (w / n / 16) (h / blockHeight p w h rp n) c = _ := Equiv.apply_symm_apply _ _
    simp only [p1, c1, r1, R1, q1]
    rw [show ((⟨c.1.val, c1 ▸ hc'⟩, ⟨c.2.val, R1 ▸ hr'⟩) : Fin _ × Fin _) = c from rfl, this]
    simp only [Prod.mk.injEq]
    refine ⟨?_, ?_⟩
    · have := (block_split (x := u) H.pw0 H.p16).2.1; omega
    · have := Nat.div_add_mod v (blockHeight p w h rp n); rw [Nat.mul_comm] at this; exact this

end Sys2Proof.Machine
end

