-- ==== Sys2Proof/Tests/Slice0.lean ====
section
/-! SUPPORT. Named tests, expected results from 30_encoding.md section 6 and 95_test_vectors.md (program and section
numbers below are that file's), and a witness for the hypotheses of every statement of
Sys2Proof/Certificates/Slice0/Obligations.lean that has any. -/

namespace Sys2Proof.Tests

open Sys2Proof Sys2Proof.Machine

/-! ## Well-formedness: one ill-formed term for each check -/

theorem test_wf_x_low : (Instr.setpixel (-32769) 0 0 0 0).wellFormed = false := by decide
theorem test_wf_x_high : (Instr.setpixel 32768 0 0 0 0).wellFormed = false := by decide
theorem test_wf_y_low : (Instr.setpixel 0 (-32769) 0 0 0).wellFormed = false := by decide
theorem test_wf_y_high : (Instr.setpixel 0 32768 0 0 0).wellFormed = false := by decide
theorem test_wf_red : (Instr.setpixel 0 0 256 0 0).wellFormed = false := by decide
theorem test_wf_green : (Instr.setpixel 0 0 0 256 0).wellFormed = false := by decide
theorem test_wf_blue : (Instr.setpixel 0 0 0 0 256).wellFormed = false := by decide
theorem test_wf_565_x : (Instr.setpixel565 32768 0 0).wellFormed = false := by decide
theorem test_wf_565_y : (Instr.setpixel565 0 (-32769) 0).wellFormed = false := by decide
theorem test_wf_565_colour : (Instr.setpixel565 0 0 65536).wellFormed = false := by decide
theorem test_wf_getpixel_x : (Instr.getpixel (-32769) 0).wellFormed = false := by decide
theorem test_wf_getpixel_y : (Instr.getpixel 0 32768).wellFormed = false := by decide
/-- Every setter refuses an operand of 33 bits. -/
theorem test_wf_setters : ∀ ins ∈ [Instr.setwidth, .setheight, .setmuxbits, .setcolordepth, .setdbuf, .setpanels,
    .setrotate, .setflip, .setcolororder, .setscanpattern, .setblockpattern, .setcoloroffset, .setbrightness, .setfps,
    .setbushz], (ins (2 ^ 32)).wellFormed = false ∧ (ins (2 ^ 32 - 1)).wellFormed = true := by decide

/-! ## Decoding: a word of every constructor, written out from section 2.1 and 40_config.md -/

theorem test_decode_init : decode 0x0100000000000000#64 = .ok .init := by decide
theorem test_decode_enable : decode 0x0200000000000000#64 = .ok .enable := by decide
theorem test_decode_disable : decode 0x0300000000000000#64 = .ok .disable := by decide
theorem test_decode_swap : decode 0x0400000000000000#64 = .ok .swap := by decide
theorem test_decode_clear : decode 0x0500000000000000#64 = .ok (.clear .edit) ∧
    decode 0x0500000000000001#64 = .ok (.clear .display) := by decide
theorem test_decode_copy : decode 0x0600000000000000#64 = .ok (.copy .d2e) ∧
    decode 0x0600000000000001#64 = .ok (.copy .e2d) := by decide
theorem test_decode_setpixel : decode 0x08FFFF0005010203#64 = .ok (.setpixel (-1) 5 1 2 3) ∧
    decode 0x0880007FFF000000#64 = .ok (.setpixel (-32768) 32767 0 0 0) := by decide
theorem test_decode_setpixel565 : decode 0x0900030002F80000#64 = .ok (.setpixel565 3 2 0xF800) := by decide
theorem test_decode_getpixel : decode 0x0A001F001F000000#64 = .ok (.getpixel 31 31) := by decide
theorem test_decode_setwidth : decode 0x1001000000000040#64 = .ok (.setwidth 64) := by decide
theorem test_decode_setheight : decode 0x1002000000000020#64 = .ok (.setheight 32) := by decide
theorem test_decode_setmuxbits : decode 0x1003000000000004#64 = .ok (.setmuxbits 4) := by decide
theorem test_decode_setcolordepth : decode 0x100400000000000C#64 = .ok (.setcolordepth 12) := by decide
theorem test_decode_setdbuf : decode 0x1005000000000001#64 = .ok (.setdbuf 1) := by decide
theorem test_decode_setpanels : decode 0x1006000000000002#64 = .ok (.setpanels 2) := by decide
theorem test_decode_setrotate : decode 0x1007000000000001#64 = .ok (.setrotate 1) := by decide
theorem test_decode_setflip : decode 0x1008000000000001#64 = .ok (.setflip 1) := by decide
theorem test_decode_setcolororder : decode 0x1009000000000002#64 = .ok (.setcolororder 2) := by decide
theorem test_decode_setscanpattern : decode 0x100A000000000006#64 = .ok (.setscanpattern 6) := by decide
theorem test_decode_setblockpattern : decode 0x100B000000000001#64 = .ok (.setblockpattern 1) := by decide
theorem test_decode_setcoloroffset : decode 0x100C000000100000#64 = .ok (.setcoloroffset 0x100000) := by decide
theorem test_decode_setbrightness : decode 0x100D000000000080#64 = .ok (.setbrightness 128) := by decide
theorem test_decode_setfps : decode 0x100E0000000000C8#64 = .ok (.setfps 200) := by decide
theorem test_decode_setbushz : decode 0x100F000001312D00#64 = .ok (.setbushz 20000000) := by decide

/-- The illegal words of section 2.1. -/
theorem test_decode_illegal :
    decode 0x0000000000000000#64 = .illegal .reservedOpc ∧ decode 0xFFFFFFFFFFFFFFFF#64 = .illegal .reservedOpc ∧
    decode 0x0700000000000000#64 = .illegal .reservedOpc ∧ decode 0x0B00000000000000#64 = .illegal .reservedOpc ∧
    decode 0x0100000000000001#64 = .illegal .nonzeroZero ∧ decode 0x0500000000000002#64 = .illegal .nonzeroZero ∧
    decode 0x09000000000000FF#64 = .illegal .nonzeroZero ∧ decode 0x0A00000000000001#64 = .illegal .nonzeroZero ∧
    decode 0x1000000000000000#64 = .illegal .reservedReg ∧ decode 0x1010000000000000#64 = .illegal .reservedReg ∧
    decode 0x1001000100000020#64 = .illegal .nonzeroZero := by decide

/-! ## States the tests start from -/

/-- A field of the next state of an answer. -/
def after {α : Type} (o : Host.Outcome State Fault Refusal) (f : State → α) : Option α :=
  match o with
  | .next t => some (f t)
  | .fault _ => none
  | .refused _ => none

/-- Reset with the parameters of the examples: TICK_HZ 1000000 and FB_CAPACITY large. -/
def base : State := { State.reset with params := { tickHz := 1000000, fbCapacity := 2 ^ 32, dbcaDiag := .main } }

/-- A block configured in UNINIT. -/
def configured (c : ConfigRegs) : State := { base with cfg := c }

/-- The same block after INIT. -/
def initDone (c : ConfigRegs) : State :=
  match execInit (configured c) with
  | .next t => t
  | .fault _ => base
  | .refused _ => base

/-- The configuration of the scenario 1.1: 32x32, MUXBITS 4, COLORDEPTH 6, FPS 60, BUSHZ 20000000. -/
def scenario : ConfigRegs :=
  { ConfigRegs.reset with width := 32, height := 32, muxbits := 4, colordepth := 6, fps := 60, bushz := 20000000 }

/-- The configuration of program 2: 16x8, MUXBITS 3, COLORDEPTH 2, two buffers, FLIP 1. -/
def program2 : ConfigRegs :=
  { ConfigRegs.reset with
    width := 16, height := 8, muxbits := 3, colordepth := 2, dbuf := true, flip := true, fps := 100, bushz := 8000000 }

/-- Program 2 after INIT. -/
def idle : State := initDone program2

/-- The same with one buffer. -/
def idleOne : State := initDone { program2 with dbuf := false }

/-- Program 2 after ENABLE. -/
def enabled : State :=
  match execEnable idle with
  | .next t => t
  | .fault _ => idle
  | .refused _ => idle

/-- Program 2 while ARMED, at ROW 2, PLANE 1 of the display buffer; row address 3 on the lines. -/
def armed : State := { enabled with life := .armed { row := 2, plane := 1, cursor := 66 }, gpo := 0x43 }

/-- The same with a transfer of that scan group in flight. -/
def sending : State := { armed with tx := { busy := true, addr := 66, len := 6, pos := 0 } }

/-- Program 2, step 6: SETPIXEL 9, 1, 255, 128, 64 decoded, before its first byte step. -/
def drawing : State := { armed with hostOp := .scatter 96 11 1 3 2 1 0 }

/-- A state whose next step runs this word. -/
def withWord (w : Nat) (s : State) : State := s.withFetchWord 64 w

/-- The turn of an agent. -/
def withTurn (t : Turn) (s : State) : State := { s with schedule := [t] }

/-- FB with zeros at these addresses, as after a CLEAR. -/
def zeroAt (as : List Nat) (s : State) : State := { s with fb := { s.fb with cells := as.map fun a => (a, 0#8) } }

/-! ## Configuration: sections 2.2 and 1.5, program 3 -/

/-- Program 3, steps 1 and 2: from reset ENABLE is refused NOTINIT and INIT refused BADGEOM; the step that runs a word
from reset runs that command. -/
theorem test_step_from_reset :
    after (step (withWord 0x1001000000000020 State.reset)) (·.cfg.width) = some 32 ∧
    after (step (withWord 0x0200000000000000 State.reset)) (·.errcode) = some .notinit ∧
    after (step (withWord 0x0100000000000000 State.reset)) (·.errcode) = some .badgeom ∧
    after (step (withWord 0x0000000000000000 State.reset)) (·.errcode) = some .illegal := by decide

/-- The sizes and BASETICKS of the first and seventh rows of section 2.2. -/
theorem test_init_sizes :
    after (execInit (configured scenario)) (fun t => (t.der.rowpattern, t.der.w8, t.der.nrows, t.der.pcb, t.der.sbs))
      = some (16, 4, 2, 8, 24) ∧
    after (execInit (configured scenario)) (fun t => (t.der.bufsize, t.der.fbsize, t.der.nbuf, t.der.baseticks))
      = some (384, 2304, 1, 16) ∧
    after (execInit (configured { scenario with width := 128, colordepth := 5, dbuf := true }))
      (fun t => (t.der.sbs, t.der.fbsize, t.fb.size, t.der.baseticks)) = some (96, 7680, 15360, 39) := by decide

/-- The refusals of INIT in section 2.2. -/
theorem test_init_refusals :
    after (execInit (configured { scenario with height := 24 })) (·.errcode) = some .badgeom ∧
    after (execInit (configured { scenario with muxbits := 2 })) (·.errcode) = some .badgeom ∧
    after (execInit (configured { scenario with bushz := 1 })) (·.errcode) = some .badgeom ∧
    after (execInit { configured scenario with params := { tickHz := 1000000, fbCapacity := 2303, dbcaDiag := .main } })
      (·.errcode) = some .nomem ∧
    after (execInit idle) (·.errcode) = some .badstate := by decide

/-- `baseticks()` of the second table of section 2.2. -/
theorem test_baseticks :
    baseticks 1000000 200 16 6 24 20000000 = some 10 ∧ baseticks 1000000 0 16 6 24 20000000 = some 992 ∧
    baseticks 1000000 65535 16 6 24 20000000 = some 10 ∧ baseticks 1000000 60 16 6 24 1000000 = some 192 ∧
    baseticks 1000000 60 16 6 24 1 = none ∧ baseticks 80000000 60 16 6 24 10000000 = some 1536 := by decide

/-- MUXSEQ of section 2.2 for ROWPATTERN 8, SBS 6, and entry 16 for ROWPATTERN 32, SBS 12. -/
theorem test_muxseq :
    muxSeqTable 8 6 = [⟨.clr, 0x04, 0⟩, ⟨.set, 0x01, 6⟩, ⟨.set, 0x02, 18⟩, ⟨.clr, 0x01, 12⟩] ++
      [⟨.set, 0x04, 36⟩, ⟨.set, 0x01, 42⟩, ⟨.clr, 0x02, 30⟩, ⟨.clr, 0x01, 24⟩] ∧
    muxSeqEntry 32 12 16 = ⟨.set, 0x10, 288⟩ ∧ muxSeqEntry 32 12 0 = ⟨.clr, 0x10, 0⟩ := by decide

theorem test_rowoff : rowOffTable 8 8 6 = [5, 11, 17, 23, 29, 35, 41, 47] ∧ rowOffEntry 16 24 31 = 383 := by decide

theorem test_setwidth : after (exec (.setwidth 32767) base) (·.cfg.width) = some 32767 ∧
    after (exec (.setwidth 32768) base) (·.errcode) = some .badvalue ∧
    after (exec (.setwidth 40000) idle) (·.errcode) = some .locked := by decide
theorem test_setheight : after (exec (.setheight 32767) base) (·.cfg.height) = some 32767 ∧
    after (exec (.setheight 32768) base) (·.errcode) = some .badvalue ∧
    after (exec (.setheight 8) armed) (·.errcode) = some .locked := by decide
theorem test_setmuxbits : after (exec (.setmuxbits 7) base) (·.cfg.muxbits) = some 7 ∧
    after (exec (.setmuxbits 8) base) (·.errcode) = some .badvalue := by decide
theorem test_setcolordepth : after (exec (.setcolordepth 0) base) (·.cfg.colordepth) = some 1 ∧
    after (exec (.setcolordepth 0xFFFFFFFF) base) (fun t => (t.cfg.colordepth, t.refused)) = some (8, false) ∧
    after (exec (.setcolordepth 4) idle) (·.errcode) = some .locked := by decide
theorem test_setdbuf : after (exec (.setdbuf 1) base) (·.cfg.dbuf) = some true ∧
    after (exec (.setdbuf 2) base) (·.errcode) = some .badvalue := by decide
theorem test_setpanels : after (exec (.setpanels 255) idle) (·.cfg.panels) = some 255 ∧
    after (exec (.setpanels 0) idle) (·.errcode) = some .badvalue ∧
    after (exec (.setpanels 256) base) (·.errcode) = some .badvalue := by decide
theorem test_setrotate : after (exec (.setrotate 1) idle) (·.cfg.rotate) = some true ∧
    after (exec (.setrotate 1) armed) (·.errcode) = some .locked ∧
    after (exec (.setrotate 2) idle) (·.errcode) = some .badvalue := by decide
theorem test_setflip : after (exec (.setflip 1) base) (·.cfg.flip) = some true ∧
    after (exec (.setflip 2) base) (·.errcode) = some .badvalue := by decide
theorem test_setcolororder : after (exec (.setcolororder 5) idle) (·.cfg.colororder) = some .bgr ∧
    after (exec (.setcolororder 6) idle) (·.errcode) = some .badvalue := by decide
theorem test_setscanpattern : after (exec (.setscanpattern 8) idle) (·.cfg.scanpattern) = some .zziagg ∧
    after (exec (.setscanpattern 9) idle) (·.errcode) = some .badvalue := by decide
theorem test_setblockpattern : after (exec (.setblockpattern 1) idle) (·.cfg.blockpattern) = some .dbca ∧
    after (exec (.setblockpattern 2) idle) (·.errcode) = some .badvalue := by decide
theorem test_setcoloroffset : after (exec (.setcoloroffset 0xFFFFFF) idle) (·.cfg.coloroffset) = some 0xFFFFFF ∧
    after (exec (.setcoloroffset 0x1000000) idle) (·.errcode) = some .badvalue := by decide
theorem test_setbrightness : after (exec (.setbrightness 10) armed) (·.cfg.brightness) = some 10 ∧
    after (exec (.setbrightness 256) armed) (·.errcode) = some .badvalue := by decide
theorem test_setfps : after (exec (.setfps 200) (initDone scenario)) (fun t => (t.cfg.fps, t.der.baseticks)) = some (200, 10) ∧
    after (exec (.setfps 65536) base) (·.errcode) = some .badvalue := by decide
theorem test_setbushz : after (exec (.setbushz 1) (initDone scenario)) (fun t => (t.errcode, t.cfg.bushz, t.der.baseticks))
      = some (.badvalue, 20000000, 16) ∧
    after (exec (.setbushz 0) base) (·.errcode) = some .badvalue := by decide

/-! ## Translator: sections 2.3 and 2.4 -/

/-- Rows of section 2.3. -/
theorem test_wire_values :
    ({ base with cfg := { ConfigRegs.reset with colordepth := 6 } } : State).wireValues ⟨255, 0, 0⟩ = ⟨63, 0, 0⟩ ∧
    ({ base with cfg := { ConfigRegs.reset with colordepth := 8, colororder := .gbr } } : State).wireValues ⟨1, 2, 3⟩
      = ⟨2, 3, 1⟩ ∧
    ({ base with cfg := { ConfigRegs.reset with colordepth := 1, colororder := .bgr, coloroffset := 0x100000 } } : State).wireValues
      ⟨20, 200, 130⟩ = ⟨1, 1, 0⟩ ∧
    ({ base with cfg := { ConfigRegs.reset with coloroffset := 0x100A05 } } : State).wireValues ⟨10, 10, 10⟩ = ⟨0, 0, 5⟩ := by
  decide

/-- LINE, mirrored and not, and rotated, at 32x32. -/
theorem test_translate_line :
    (initDone scenario).translate 0 0 = .place 23 7 ∧ (initDone scenario).translate 12 21 = .place 138 3 ∧
    (initDone scenario).translate 31 31 = .place 376 0 ∧ (initDone scenario).translate (-1) 0 = .drop ∧
    (initDone { scenario with flip := true }).translate 12 21 = .place 137 4 ∧
    (initDone { scenario with rotate := true }).translate 5 2 = .place 259 5 ∧
    (initDone { scenario with rotate := true, flip := true }).translate 5 2 = .place 256 2 := by decide

/-- 32x32, ROWPATTERN 8, FLIP 1, with this scan pattern. -/
def paired (p : ScanPattern) : State := initDone { scenario with muxbits := 3, flip := true, scanpattern := p }

/-- The byte and nibble patterns at (27, 0), (0, 8) and (13, 29). -/
theorem test_translate_paired :
    [ScanPattern.zigzag, .zagzig, .zaggiz, .zzagg, .zziagg].map (fun p => (paired p).translate 27 0)
      = [.place 47 3, .place 46 3, .place 46 4, .place 47 3, .place 47 7] ∧
    [ScanPattern.zigzag, .zagzig, .zaggiz, .zzagg, .zziagg].map (fun p => (paired p).translate 0 8)
      = [.place 40 0, .place 41 0, .place 41 0, .place 41 4, .place 41 0] ∧
    [ScanPattern.zigzag, .zagzig, .zaggiz, .zzagg, .zziagg].map (fun p => (paired p).translate 13 29)
      = [.place 274 5, .place 275 5, .place 275 5, .place 274 5, .place 274 1] := by decide

/-- Preconditions: odd NROWS, block patterns off their geometry. -/
theorem test_precond :
    (initDone { scenario with muxbits := 5, scanpattern := .zigzag }).precondOk = false ∧
    (initDone { scenario with scanpattern := .wzagzig }).precondOk = false ∧
    (initDone { scenario with muxbits := 3, scanpattern := .wzagzig }).precondOk = true ∧
    (initDone { scenario with muxbits := 3, width := 128, panels := 2, scanpattern := .wzagzig }).precondOk = false ∧
    (initDone { scenario with width := 40, blockpattern := .dbca }).precondOk = true ∧
    (initDone { scenario with width := 40, panels := 3, blockpattern := .dbca }).precondOk = false := by decide

/-- 32x32 with DBCA and FLIP 1. -/
def dbca : State := initDone { scenario with flip := true, blockpattern := .dbca }

/-- DBCA on either diagonal, and the corner case of 41_translator.md R136. -/
theorem test_dbca :
    dbca.translate 0 0 = .place 214 0 ∧ dbca.translate 31 31 = .place 185 7 ∧ dbca.translate 16 0 = .place 22 0 ∧
    ({ dbca with params := { dbca.params with dbcaDiag := .anti } } : State).translate 16 0 = .place 212 0 ∧
    swapBlocks .anti 16 8 (-1, 0) = (-17, 8) ∧ swapBlocks .main 16 8 (-1, 0) = (-1, 0) ∧
    (initDone { scenario with width := 64, rotate := true, blockpattern := .dbca }).translate 0 0 = .drop := by decide

/-! ## Frame-buffer commands: section 2.5 and program 2 -/

/-- Program 2, step 6: the first step of SETPIXEL, and its last byte step. -/
theorem test_setpixel : after (exec (.setpixel 9 1 255 128 64) armed) (·.hostOp) = some (.scatter 96 11 1 3 2 1 0) ∧
    after (State.hostByteStep { zeroAt [153] armed with hostOp := .scatter 96 11 1 3 2 1 4 }) (fun t => (t.fb.cells, t.hostOp))
      = some ([(153, 0x02)], .scatter 96 11 1 3 2 1 5) ∧
    after (State.hostByteStep { zeroAt [151] armed with hostOp := .scatter 96 11 1 3 2 1 5 }) (fun t => (t.fb.cells, t.hostOp))
      = some ([(151, 0x00)], .ready) := by decide

/-- A shared byte keeps its other bits; a dropped pixel changes nothing. -/
theorem test_setpixel_shares :
    after (State.hostByteStep { initDone scenario with
      fb := { (initDone scenario).fb with cells := [(23, 0x80)] }, hostOp := .scatter 0 23 6 0 63 0 0 }) (·.fb.cells)
      = some [(23, 0x80)] ∧
    after (exec (.setpixel 32 0 255 255 255) idle) (fun t => (t.hostOp, t.refused)) = some (.ready, false) ∧
    after (exec (.setpixel 0 0 1 2 3) base) (·.errcode) = some .notinit := by decide

/-- Program 2, step 11. -/
theorem test_setpixel565 : after (exec (.setpixel565 0 0 0x07E0) { armed with sel := true }) (·.hostOp)
      = some (.scatter 0 4 0 0 3 0 0) ∧
    expand565 0x8410 = ⟨132, 130, 132⟩ ∧ expand565 0x0821 = ⟨8, 4, 8⟩ := by decide

theorem test_getpixel : after (exec (.getpixel 0 0) base) (·.trace) = some [.resp 0] := by decide

theorem test_clear : after (exec (.clear .display) { idle with sel := true }) (·.hostOp) = some (.clear 96 0) ∧
    after (exec (.clear .edit) { idle with sel := true }) (·.hostOp) = some (.clear 0 0) ∧
    after (State.hostByteStep { idle with hostOp := .clear 96 95 }) (fun t => (t.fb.cells, t.hostOp))
      = some ([(191, 0)], .ready) := by decide

theorem test_copy : after (exec (.copy .e2d) idle) (·.hostOp) = some (.copy 96 0 0) ∧
    after (State.hostByteStep { idle with
      fb := { idle.fb with cells := [(103, 7)] }, hostOp := .copy 96 0 7 }) (·.fb.cells) = some [(7, 7), (103, 7)] ∧
    after (exec (.copy .d2e) idleOne) (·.hostOp) = some .ready := by decide

/-- The geometry of 42_framebuffer.md R145: SWAP moves CURSOR 1224 to 3528, and a second SWAP moves it back. -/
theorem test_swap :
    after (exec .swap { initDone { scenario with dbuf := true } with
      life := .armed { row := 2, plane := 3, cursor := 1224 } }) (fun t => (t.sel, t.life))
      = some (true, .armed { row := 2, plane := 3, cursor := 3528 }) ∧
    after (exec .swap { initDone { scenario with dbuf := true } with
      sel := true, life := .armed { row := 2, plane := 3, cursor := 3528 } }) (fun t => (t.sel, t.life))
      = some (false, .armed { row := 2, plane := 3, cursor := 1224 }) ∧
    after (exec .swap idleOne) (·.sel) = some false := by decide

/-! ## Scheduler and serial engine: section 2.6 -/

theorem test_enable : after (exec .enable idle) (·.trace) = some [.gpoClr 0x07, .timerArm 416] ∧
    after (exec .enable idle) (·.life) = some (.armed { row := 0, plane := 0, cursor := 0 }) ∧
    after (exec .enable armed) (·.errcode) = some .badstate := by decide

theorem test_disable : after (exec .disable { armed with gpo := 0x45, trace := [] }) (fun t => (t.gpo, t.trace, t.tarmed))
      = some (0x05, [.gpoClr 0x40, .timerDetach], false) ∧
    after (exec .disable base) (·.errcode) = some .notinit := by decide

/-- The scenario while ARMED at this position. -/
def at32 (row : BitVec 5) (plane : BitVec 3) (cursor : BitVec 32) : State :=
  { initDone scenario with life := .armed { row := row, plane := plane, cursor := cursor }, tarmed := true }

/-- Rows 1 and 4 of the TICK table. -/
theorem test_tick_trace :
    after (at32 0 0 0).schedStep (fun t => (t.trace, t.life)) =
      some ([.gpoClr 0x40, .gpoClr 0x08, .gpoSet 0x20, .gpoClr 0x20, .gpoSet 0x40, .txStart 384 24, .timerArm 32],
        .armed { row := 0, plane := 1, cursor := 384 }) ∧
    after (at32 0 5 1920).schedStep (fun t => (t.trace, t.life)) =
      some ([.gpoClr 0x40, .gpoSet 0x20, .gpoClr 0x20, .gpoSet 0x40, .txStart 24 24, .timerArm 16],
        .armed { row := 1, plane := 0, cursor := 24 }) := by decide

/-- Rows 5, 6 and 7 of the TICK table. -/
theorem test_tick_advance :
    after (at32 1 0 24).schedStep (fun t => (t.gpo, t.life)) = some (0x41, .armed { row := 1, plane := 1, cursor := 408 }) ∧
    after (at32 2 5 1992).schedStep (·.life) = some (.armed { row := 3, plane := 0, cursor := 48 }) ∧
    after (at32 15 5 2112).schedStep (fun t => (t.tx.addr, t.life)) = some (0, .armed { row := 0, plane := 0, cursor := 0 }) := by
  decide

/-- A byte step, and the done step, of TXENG; bit 7 leaves first. -/
theorem test_txeng :
    after ({ zeroAt [66] sending with trace := [] } : State).txStep (fun t => (t.trace, t.tx.pos, t.tx.busy))
      = some ([.txByte 0], 1, true) ∧
    after ({ sending with trace := [], tx := { sending.tx with pos := 6 } } : State).txStep (fun t => (t.trace, t.tx.busy))
      = some ([.txDone], false) ∧
    wireBits 0x80 = [true, false, false, false, false, false, false, false] := by decide

/-- The end of a run: ARMED it needs a number of TICKs to consider, all of them taken. -/
theorem test_over :
    (let s := { armed with trace := [.txStart 66 6, .txDone] }
     s.over none = false ∧ s.over (some 2) = false ∧ s.over (some 1) = true) ∧
    idle.over none = true ∧ sending.over (some 0) = false ∧ drawing.over (some 0) = false ∧
    (withWord 0x0200000000000000 idle).over none = false := by decide

/-- The status wires of a refused, sending block. -/
theorem test_wires : ({ sending with refused := true, errcode := .precond, sel := true } : State).wires
    = { state := 2, refused := 1, errcode := 8, txbusy := 1, sel := 1 } := by decide

/-! ## The invariant holds in the states the witnesses use -/

theorem inv_turn {s : State} (hi : s.Inv) (p : List Word) (sc : List Turn) (n : Nat) :
    ({ s with port := p, schedule := sc, turn := n } : State).Inv :=
  { hi with
    initialised := fun hl =>
      let h := hi.initialised hl
      ⟨h.geometry, h.derived, h.ticks, h.muxseq, h.rowoff, h.memory, h.addressable⟩
    position := fun pos hp =>
      let h := hi.position pos hp
      ⟨h.row, h.plane, h.cursor⟩ }

theorem inv_withTurn {s : State} (hi : s.Inv) (t : Turn) : (withTurn t s).Inv := inv_turn hi s.port [t] s.turn

theorem inv_idle : idle.Inv where
  memoryForm := by decide
  refusal := by decide
  widthLegal := by decide
  heightLegal := by decide
  colordepthLegal := by decide
  panelsLegal := by decide
  emptyBefore h := absurd h (by decide)
  initialised _ := ⟨by decide, by decide, by decide, by decide, by decide, by decide, by decide⟩
  timer := by decide
  position pos h := absurd (congrArg Life.isArmed h) (by simp only [Life.isArmed]; decide)
  oneBuffer _ := by decide
  engine := by decide
  engineInside h := absurd h (by decide)
  command := trivial

theorem position_armed (pos : RefreshPos) (h : armed.life = .armed pos) : armed.PositionOk pos := by
  obtain rfl : (⟨2, 1, 66⟩ : RefreshPos) = pos := Life.armed.inj h
  exact ⟨by decide, by decide, by decide⟩

theorem inv_armed : armed.Inv :=
  { inv_idle with
    emptyBefore := fun h => absurd h (by decide)
    initialised := fun _ => ⟨by decide, by decide, by decide, by decide, by decide, by decide, by decide⟩
    timer := by decide
    position := position_armed }

theorem inv_enabled : enabled.Inv :=
  { inv_idle with
    emptyBefore := fun h => absurd h (by decide)
    initialised := fun _ => ⟨by decide, by decide, by decide, by decide, by decide, by decide, by decide⟩
    timer := by decide
    position := fun pos h => by
      obtain rfl : (⟨0, 0, 0⟩ : RefreshPos) = pos := Life.armed.inj h
      exact ⟨by decide, by decide, by decide⟩ }

theorem inv_sending : sending.Inv :=
  { inv_armed with
    emptyBefore := fun h => absurd h (by decide)
    initialised := fun _ => ⟨by decide, by decide, by decide, by decide, by decide, by decide, by decide⟩
    position := fun pos h => let p := position_armed pos h; ⟨p.row, p.plane, p.cursor⟩
    engine := by decide
    engineInside := fun _ => by decide }

theorem inv_drawing : drawing.Inv :=
  { inv_armed with
    emptyBefore := fun h => absurd h (by decide)
    initialised := fun _ => ⟨by decide, by decide, by decide, by decide, by decide, by decide, by decide⟩
    position := fun pos h => let p := position_armed pos h; ⟨p.row, p.plane, p.cursor⟩
    command := ⟨by unfold State.bufferAt; decide, by decide, by decide, by decide, by decide⟩ }

theorem linesInv_armed : armed.LinesInv where
  unused := by decide
  latch := by decide
  blank h := absurd h (by decide)
  quiet h := absurd h (by decide)
  rows pos h := by
    obtain rfl : (⟨2, 1, 66⟩ : RefreshPos) = pos := Life.armed.inj h
    decide

/-- A state with these translator settings and this diagonal. -/
def look (p : ScanPattern) (b : BlockPattern) (rotate flip : Bool) (d : DbcaDiag) (s : State) : State :=
  { s with
    params := { s.params with dbcaDiag := d }
    cfg := { s.cfg with scanpattern := p, blockpattern := b, rotate := rotate, flip := flip } }

/-- The translator settings are free in the invariant. -/
theorem inv_look {s : State} (hi : s.Inv) (p : ScanPattern) (b : BlockPattern) (rotate flip : Bool) (d : DbcaDiag) :
    (look p b rotate flip d s).Inv :=
  { hi with
    initialised := fun hl =>
      let h := hi.initialised hl
      ⟨h.geometry, h.derived, h.ticks, h.muxseq, h.rowoff, h.memory, h.addressable⟩
    position := fun pos hp =>
      let h := hi.position pos hp
      ⟨h.row, h.plane, h.cursor⟩ }

theorem inv_line : (paired .line).Inv where
  memoryForm := by decide
  refusal := by decide
  widthLegal := by decide
  heightLegal := by decide
  colordepthLegal := by decide
  panelsLegal := by decide
  emptyBefore h := absurd h (by decide)
  initialised _ := ⟨by decide, by decide, by decide, by decide, by decide, by decide, by decide⟩
  timer := by decide
  position pos h := absurd (congrArg Life.isArmed h) (by simp only [Life.isArmed]; decide)
  oneBuffer _ := by decide
  engine := by decide
  engineInside h := absurd h (by decide)
  command := trivial

/-- Program 2 after INIT meets the premises of the translator's properties. -/
theorem ready_idle : idle.TranslatorReady :=
  ⟨inv_idle, by decide, by decide, by decide⟩

/-! ## Witnesses: every statement with hypotheses has a state and operands that meet them together -/

theorem witness_DecodeOfEncode : (Instr.setpixel (-32768) 32767 255 255 255).wellFormed = true ∧
    (Instr.setbushz (2 ^ 32 - 1)).wellFormed = true ∧ (Instr.copy .e2d).wellFormed = true := by decide

theorem witness_EncodeOfDecode : decode 0x0880007FFF000000#64 = .ok (.setpixel (-32768) 32767 0 0 0) := by decide

theorem witness_IllegalWordRefused :
    (withWord 0 base).nextTurn = .host ∧ (withWord 0 base).hostOp = .ready ∧ (withWord 0 base).port = [0#64] ∧
    ∀ row ∈ opcodeRows, 0#64 &&& row.1 ≠ row.2 :=
  ⟨by decide, by decide, by decide, by simp [opcodeRows]⟩

theorem witness_StepRunsDecodedCommand :
    (withWord 0x0200000000000000 idle).nextTurn = .host ∧ (withWord 0x0200000000000000 idle).hostOp = .ready ∧
    (withWord 0x0200000000000000 idle).port = [0x0200000000000000#64] ∧
    decode 0x0200000000000000#64 = .ok .enable := by decide

theorem witness_StepTakesTheTurn :
    ((withTurn .host drawing).nextTurn = .host ∧ (withTurn .host drawing).hostOp ≠ .ready) ∧
    ((withTurn .host idle).nextTurn = .host ∧ (withTurn .host idle).hostOp = .ready ∧ (withTurn .host idle).port = []) ∧
    (withTurn .sched armed).nextTurn = .sched ∧ (withTurn .txeng sending).nextTurn = .txeng ∧
    (withTurn .reset armed).nextTurn = .reset ∧
    ((withTurn .host idle).over none = true ∧ (withTurn .txeng idle).over (some 0) = true ∧
      (withTurn .sched idle).over none = true) ∧
    (let s := { armed with trace := [.txStart 66 6] }
     (withTurn .host s).over (some 1) = true ∧ (withTurn .host s).nextTurn = .host ∧
     (withTurn .txeng s).over (some 1) = true ∧ (withTurn .txeng s).nextTurn = .txeng) := by decide

/-- The encodings of the setters at the last operand value, 2^32 - 1. -/
theorem witness_SetterEncoded : 2 ^ 32 - 1 < 2 ^ 32 ∧
    decode 0x1001FFFFFFFFFFFF#64 = .illegal .nonzeroZero ∧ decode 0x10010000FFFFFFFF#64 = .ok (.setwidth (2 ^ 32 - 1)) := by
  decide

/-- The scenario with exactly the bytes it needs. -/
theorem witness_InitDerivesAndAllocates :
    let s := { configured scenario with params := { tickHz := 1000000, fbCapacity := 2304, dbcaDiag := .main } }
    s.life = .uninit ∧ (16 = 2 ^ s.cfg.muxbits.toNat) ∧ s.cfg.muxbits.toNat = 4 ∧ 8 ≤ s.cfg.width.toNat ∧
    s.cfg.width.toNat % 8 = 0 ∧ 16 ≤ s.cfg.height.toNat ∧ s.cfg.height.toNat % 16 = 0 ∧ s.cfg.bushz.toNat ≠ 0 ∧
    8 = s.cfg.height.toNat / 16 * (s.cfg.width.toNat / 8) ∧ 384 = s.cfg.height.toNat * s.cfg.width.toNat * 3 / 8 ∧
    1 = (if s.cfg.dbuf then 2 else 1) ∧ 1 * (s.cfg.colordepth.toNat * 384) ≤ s.params.fbCapacity ∧
    1 * (s.cfg.colordepth.toNat * 384) ≤ 2 ^ 32 ∧
    baseticks s.params.tickHz s.cfg.fps.toNat 16 s.cfg.colordepth.toNat (3 * 8) s.cfg.bushz.toNat = some 16 := by decide

theorem witness_InitRefusals :
    idle.life ≠ .uninit ∧ (base.life = .uninit ∧ geometryOk base.cfg = false) ∧
    (let s := { configured scenario with params := { tickHz := 1000000, fbCapacity := 2303, dbcaDiag := .main } }
     s.life = .uninit ∧ geometryOk s.cfg = true ∧
     min s.params.fbCapacity (2 ^ 32) < (deriveSizes s.cfg).nbuf * (deriveSizes s.cfg).fbsize) ∧
    (let s := { configured { scenario with bushz := 1 } with
       params := { tickHz := 1000000, fbCapacity := 2304, dbcaDiag := .main } }
     s.life = .uninit ∧ geometryOk s.cfg = true ∧
     (deriveSizes s.cfg).nbuf * (deriveSizes s.cfg).fbsize ≤ min s.params.fbCapacity (2 ^ 32) ∧ s.initTicks = none) := by
  decide

theorem witness_DerivedSizesExact : armed.Inv ∧ armed.life ≠ .uninit := ⟨inv_armed, by decide⟩

/-- On either side of the overflow, the ideal winning, the floor winning, and the bound 1 winning. -/
theorem witness_BaseticksKeepsTheFloor :
    (0 < 8 ∧ 536870912 = 2 ^ 32 / (max 1 1 * 8 * (2 ^ 1 - 1)) ∧ 1 * 8 * 2 ^ 32 ≤ 2 ^ 32 * 8 ∧
      (∀ n, 1 * 8 * 2 ^ 32 ≤ n * 8 → 2 ^ 32 ≤ n) ∧ baseticks (2 ^ 32) 1 8 1 1 8 = none) ∧
    (536870911 = (2 ^ 32 - 1) / (max 1 1 * 8 * (2 ^ 1 - 1)) ∧ 1 * 8 * (2 ^ 32 - 1) ≤ (2 ^ 32 - 1) * 8 ∧
      (∀ n, 1 * 8 * (2 ^ 32 - 1) ≤ n * 8 → 2 ^ 32 - 1 ≤ n) ∧ 0 < 1 ∧
      baseticks (2 ^ 32 - 1) 1 8 1 1 8 = some (2 ^ 32 - 1)) ∧
    (16 = 1000000 / (max 60 1 * 16 * (2 ^ 6 - 1)) ∧ 24 * 8 * 1000000 ≤ 10 * 20000000 ∧
      (∀ n, 24 * 8 * 1000000 ≤ n * 20000000 → 10 ≤ n) ∧ 5 < 6) ∧
    baseticks 1 65535 32 8 3 4294967295 = some 1 := by
  refine ⟨⟨by decide, by decide, by decide, fun n h => by omega, by decide⟩,
    ⟨by decide, by decide, fun n h => by omega, by decide, by decide⟩,
    ⟨by decide, by decide, fun n h => by omega, by decide⟩, by decide⟩

theorem witness_RowOffTable : idle.Inv ∧ idle.life ≠ .uninit ∧ 0 < idle.cfg.height.toNat ∧ 7 < idle.cfg.height.toNat :=
  ⟨inv_idle, by decide, by decide, by decide⟩

theorem witness_BlockSwapIsInvolution : (0 : Int) < 1 ∧ (0 : Int) < 8 := by decide

theorem witness_WireValuesOfPixel : (255 ≤ 255 ∧ 0 ≤ 255) ∧
    (1 ≤ armed.cfg.colordepth.toNat ∧ armed.cfg.colordepth.toNat ≤ 8) ∧
    (1 ≤ base.cfg.colordepth.toNat ∧ base.cfg.colordepth.toNat ≤ 8) := by decide

/-- LINE at two corners; every paired pattern in the upper and the lower half, at bits 3 and 4; a block pattern; DBCA on
either diagonal, with rotation and flip. -/
theorem witness_TranslatorStaysInPlane :
    (idle.Inv ∧ idle.life ≠ .uninit ∧ idle.translate 15 7 = .place 47 7 ∧ idle.translate 0 0 = .place 4 0) ∧
    (∀ p b rot flip d, (look p b rot flip d (paired .line)).Inv) ∧ (paired .line).life ≠ .uninit ∧
    [ScanPattern.zigzag, .zagzig, .zaggiz, .zzagg, .zziagg].map
        (fun p => (look p .abcd false true .main (paired .line)).translate 27 0)
      = [.place 47 3, .place 46 3, .place 46 4, .place 47 3, .place 47 7] ∧
    [ScanPattern.zigzag, .zagzig, .zaggiz, .zzagg, .zziagg].map
        (fun p => (look p .abcd false true .main (paired .line)).translate 28 8)
      = [.place 46 4, .place 47 4, .place 47 4, .place 46 4, .place 46 0] ∧
    (∃ redOff bit, (look .vzag .abcd false true .main (paired .line)).translate 31 31 = .place redOff bit) ∧
    (look .line .dbca true false .main (paired .line)).translate 0 0 = .place 378 7 ∧
    (look .line .dbca true false .anti (paired .line)).translate 16 0 = .place 370 7 :=
  ⟨⟨inv_idle, by decide, by decide, by decide⟩, inv_look inv_line, by decide, by decide, by decide, ⟨_, _, rfl⟩,
    by decide, by decide⟩

theorem witness_TranslatorPlacesThePanel : idle.TranslatorReady ∧ idle.inLogicalPanel 15 7 ∧ idle.inLogicalPanel 0 0 ∧
    ¬ idle.inLogicalPanel 16 0 ∧ ¬ idle.inLogicalPanel 0 (-1) :=
  ⟨ready_idle, by unfold State.inLogicalPanel; decide, by unfold State.inLogicalPanel; decide,
    by unfold State.inLogicalPanel; decide, by unfold State.inLogicalPanel; decide⟩

theorem witness_TranslatorIsInjective : idle.Inv ∧ idle.life ≠ .uninit ∧ 0 < 3 ∧ 2 < 3 ∧
    idle.translate 15 7 = .place 47 7 ∧ (47 : Int) - (2 : Int) * (idle.der.pcb.toNat : Int) = 43 :=
  ⟨inv_idle, by decide, by decide, by decide, by decide, by decide⟩

theorem witness_TranslatorIsOnto : idle.TranslatorReady ∧ (0 : Int) ≤ 47 ∧ (47 : Int) < (idle.der.bufsize.toNat : Int) ∧
    7 ≤ 7 := ⟨ready_idle, by decide, by decide, by decide⟩

theorem witness_PixelWriteRefusals : base.life = .uninit ∧
    (let s := initDone { scenario with muxbits := 5, scanpattern := .zigzag }; s.life ≠ .uninit ∧ s.precondOk = false) ∧
    (idle.life ≠ .uninit ∧ idle.translate 16 0 = .drop) := by decide

theorem witness_SetpixelWritesEveryLane : armed.Inv ∧ armed.life ≠ .uninit ∧ armed.translate 9 1 = .place 11 1 ∧
    1 < armed.cfg.colordepth.toNat ∧ 2 < 3 := ⟨inv_armed, by decide, by decide, by decide, by decide⟩

theorem witness_PixelRoundTrip : armed.Inv ∧ armed.life ≠ .uninit ∧ 255 ≤ 255 ∧ armed.translate 9 1 = .place 11 1 ∧
    ∃ t1 t, exec (.setpixel 9 1 255 128 64) armed = .next t1 ∧
      t1.hostByteSteps (3 * armed.cfg.colordepth.toNat) = .next t :=
  ⟨inv_armed, by decide, by decide, by decide, _, _, rfl, rfl⟩

theorem witness_Setpixel565ExpandsTheColour : armed.life ≠ .uninit ∧ 1 ≤ armed.cfg.colordepth.toNat ∧
    armed.translate 0 0 = .place 4 0 := by decide

theorem witness_ClearZeroesTheBuffer : base.life = .uninit ∧ armed.Inv ∧ armed.life ≠ .uninit :=
  ⟨by decide, inv_armed, by decide⟩

theorem witness_CopyDuplicatesTheBuffer : base.life = .uninit ∧ (idleOne.life ≠ .uninit ∧ idleOne.cfg.dbuf = false) ∧
    armed.Inv ∧ armed.life ≠ .uninit ∧ armed.cfg.dbuf = true :=
  ⟨by decide, by decide, inv_armed, by decide, by decide⟩

theorem witness_SwapExchangesTheRoles : base.life = .uninit ∧ (idleOne.life ≠ .uninit ∧ idleOne.cfg.dbuf = false) ∧
    (idle.life = .idle ∧ idle.cfg.dbuf = true) ∧
    (armed.life = .armed { row := 2, plane := 1, cursor := 66 } ∧ armed.cfg.dbuf = true) := by decide

theorem witness_SwapTwiceRestores : armed.Inv ∧ armed.life ≠ .uninit ∧
    ∃ t u, exec .swap armed = .next t ∧ exec .swap t = .next u := ⟨inv_armed, by decide, _, _, rfl, rfl⟩

theorem witness_PixelWritesKeepTheDisplay : drawing.Inv ∧ drawing.cfg.dbuf = true ∧ drawing.life ≠ .uninit ∧
    drawing.hostOp = .scatter drawing.editBase 11 1 3 2 1 0 ∧ (∃ t, drawing.hostByteStep = .next t) ∧
    (drawing.dispBase : Int) ≤ 95 ∧ (95 : Int) < (drawing.dispBase + drawing.der.fbsize.toNat : Int) :=
  ⟨inv_drawing, by decide, by decide, by decide, ⟨_, rfl⟩, by decide, by decide⟩

theorem witness_CommandsFinish : drawing.Inv ∧ drawing.hostOp ≠ .ready ∧ ∃ t, drawing.hostByteStep = .next t :=
  ⟨inv_drawing, by decide, _, rfl⟩

theorem witness_EnableArms : base.life = .uninit ∧ armed.life = .armed { row := 2, plane := 1, cursor := 66 } ∧
    idle.life = .idle ∧ idle.cfg.muxbits.toNat ≤ 5 ∧
    (initDone { scenario with muxbits := 5 }).life = .idle ∧ (initDone { scenario with muxbits := 5 }).cfg.muxbits.toNat ≤ 5 := by
  decide

theorem witness_DisableBlanks : base.life = .uninit ∧ armed.life ≠ .uninit ∧ idle.life ≠ .uninit := by decide

/-- A busy engine; the first bit-plane of a row, and the last of the last row. -/
theorem witness_TickSevenSteps :
    (sending.life = .armed { row := 2, plane := 1, cursor := 66 } ∧ sending.tarmed = true ∧ sending.tx.busy = true) ∧
    (enabled.life = .armed { row := 0, plane := 0, cursor := 0 } ∧ enabled.tarmed = true ∧ enabled.tx.busy = false ∧
      (⟨.clr, 0x04, 0⟩ : MuxEntry) = enabled.muxEntry 0) ∧
    ((at32 15 5 2112).life = .armed { row := 15, plane := 5, cursor := 2112 } ∧ (at32 15 5 2112).tarmed = true ∧
      (at32 15 5 2112).tx.busy = false ∧ (⟨.clr, 0x01, 192⟩ : MuxEntry) = (at32 15 5 2112).muxEntry 15) := by decide

theorem witness_TickIgnoredWhenNotArmed : idle.life.isArmed = false ∧ ({ armed with tarmed := false } : State).tarmed = false := by
  decide

theorem witness_BusyTickIsViolation : (withTurn .sched sending).nextTurn = .sched ∧
    (withTurn .sched sending).life = .armed { row := 2, plane := 1, cursor := 66 } ∧
    (withTurn .sched sending).tarmed = true ∧ (withTurn .sched sending).tx.busy = true := by decide

theorem witness_TicksWalkRowsAndPlanes : enabled.Inv ∧ enabled.life = .armed { row := 0, plane := 0, cursor := 0 } :=
  ⟨inv_enabled, by decide⟩

theorem witness_PassArmsTheWholeImage : armed.Inv ∧ armed.life = .armed { row := 2, plane := 1, cursor := 66 } :=
  ⟨inv_armed, by decide⟩

theorem witness_TransferSendsItsBytes : sending.tx.busy = true ∧ sending.tx.pos.toNat ≤ sending.tx.len.toNat ∧
    sending.tx.addr.toNat + sending.tx.len.toNat ≤ sending.fb.size := by decide

theorem witness_ResetEventResets : (withTurn .reset sending).nextTurn = .reset := by decide

theorem witness_StepKeepsInv : (withTurn .sched armed).Inv ∧ (∃ t, step (withTurn .sched armed) = .next t) ∧
    (withTurn .host drawing).Inv ∧ ∃ t, step (withTurn .host drawing) = .next t :=
  ⟨inv_withTurn inv_armed _, ⟨_, rfl⟩, inv_withTurn inv_drawing _, _, rfl⟩

theorem witness_StepKeepsLines : (withTurn .sched armed).Inv ∧ (withTurn .sched armed).LinesInv ∧
    ∃ t, step (withTurn .sched armed) = .next t :=
  ⟨inv_withTurn inv_armed _,
    ⟨linesInv_armed.unused, linesInv_armed.latch, linesInv_armed.blank, linesInv_armed.quiet, linesInv_armed.rows⟩, _, rfl⟩

theorem witness_OnlyTimingViolationFaults : (withTurn .sched sending).Inv ∧
    step (withTurn .sched sending) = .fault .timingViolation := ⟨inv_withTurn inv_sending _, rfl⟩

theorem witness_StateTransitions :
    after (step (withTurn .reset idle)) (·.life) = some .uninit ∧
    after (step (withWord 0x0100000000000000 (configured program2))) (·.life) = some .idle ∧
    after (step (withWord 0x0200000000000000 idle)) (·.life.isArmed) = some true ∧
    after (step (withWord 0x0300000000000000 armed)) (·.life) = some .idle := by decide

theorem witness_RefusedIsSticky :
    (withTurn .sched { armed with refused := true, errcode := .locked }).nextTurn ≠ .reset ∧
    after (step (withTurn .sched { armed with refused := true, errcode := .locked })) (·.refused) = some true := by decide

theorem witness_RefusalDoesNothingElse : (∃ t, exec .init idle = .next t) ∧ ∃ t, exec .swap idle = .next t :=
  ⟨⟨_, rfl⟩, _, rfl⟩

theorem witness_LockedConfiguration : (withTurn .sched armed).nextTurn ≠ .reset ∧ (withTurn .sched armed).life ≠ .uninit ∧
    (withTurn .sched armed).life.isArmed = true ∧ ∃ t, step (withTurn .sched armed) = .next t :=
  ⟨by decide, by decide, by decide, _, rfl⟩

theorem witness_OneByteAStep : (withTurn .host drawing).nextTurn ≠ .reset ∧ (withTurn .host drawing).life ≠ .uninit ∧
    (∃ t, step (withTurn .host drawing) = .next t) ∧ (withTurn .host drawing).storeAddr = some 107 ∧
    (withTurn .host drawing).storeAddr ≠ some 108 := ⟨by decide, by decide, ⟨_, rfl⟩, by decide, by decide⟩

theorem witness_WiresShowTheRegisters : base.life = .uninit ∧ idle.life = .idle ∧
    armed.life = .armed { row := 2, plane := 1, cursor := 66 } := by decide

theorem witness_BrightnessHasNoEffect : ∀ v, Instr.enable ≠ .setbrightness v := by simp

end Sys2Proof.Tests
end

/-! PROOFS. The configuration family (40_config.md): the setters of R80 and R88 to R102, the geometry check of R82, the
sizes of R84, and the tables MUXSEQ (R86) and ROWOFF (R87). -/

namespace Sys2Proof

/-! ### Encoding of the setters -/

theorem decode_encodeW (reg : BitVec 8) (v : BitVec 32) : decode (encodeW reg v) = decodeW (encodeW reg v) := by
  rw [decode, opcField, encodeW_opc]
  rfl

end Sys2Proof

namespace Sys2Proof.Machine

/-- A setter is encoded by the REG that selects it (30_encoding.md R64). -/
theorem setterEncoded_of_setterOf {reg : BitVec 8} {ins : Nat → Instr}
    (h : ∀ v, setterOf reg.toNat v = some (ins v)) : SetterEncoded reg ins := by
  intro v hv
  change decode (encodeW reg (zfield 32 v)) = .ok (ins v)
  rw [decode_encodeW, decodeW_encodeW reg hv (h v)]

/-! ### Locks and legal values -/

theorem Life.isUninit_eq_decide (l : Life) : l.isUninit = decide (l = .uninit) := by
  cases l <;> simp [Life.isUninit]

theorem Life.geometryOpen_eq_decide (l : Life) : l.geometryOpen = decide (l = .uninit) := l.isUninit_eq_decide

theorem Life.translatorOpen_eq (l : Life) : l.translatorOpen = !l.isArmed := rfl

/-- A number is looked up in the table of an enumerated register exactly where it is legal. -/
theorem map_ite_some {α : Type} (p : Prop) [Decidable p] (a : α) (f : α → ConfigRegs) :
    (if p then some a else none).map f = legalIf (decide p) (f a) := by
  by_cases h : p <;> simp [h, legalIf]

theorem bitOf_eq : ∀ v, bitOf v = if v ≤ 1 then some (decide (v = 1)) else none
  | 0 => rfl
  | 1 => rfl
  | n + 2 => (if_neg (show ¬ n + 2 ≤ 1 by omega)).symm

theorem blockPatternOf_eq : ∀ v, blockPatternOf v = if v ≤ 1 then some (if v = 1 then .dbca else .abcd) else none
  | 0 => rfl
  | 1 => rfl
  | n + 2 => (if_neg (show ¬ n + 2 ≤ 1 by omega)).symm

theorem colorOrderOf_eq : ∀ v, colorOrderOf v =
    if v ≤ 5 then some ([ColorOrder.rgb, .rbg, .grb, .gbr, .brg, .bgr].getD v .rgb) else none
  | 0 => rfl
  | 1 => rfl
  | 2 => rfl
  | 3 => rfl
  | 4 => rfl
  | 5 => rfl
  | n + 6 => (if_neg (show ¬ n + 6 ≤ 5 by omega)).symm

theorem scanPatternOf_eq : ∀ v, scanPatternOf v =
    if v ≤ 8 then
      some ([ScanPattern.line, .zigzag, .zzagg, .zaggiz, .wzagzig, .vzag, .zagzig, .wzagzig2, .zziagg].getD v .line)
    else none
  | 0 => rfl
  | 1 => rfl
  | 2 => rfl
  | 3 => rfl
  | 4 => rfl
  | 5 => rfl
  | 6 => rfl
  | 7 => rfl
  | 8 => rfl
  | n + 9 => (if_neg (show ¬ n + 9 ≤ 8 by omega)).symm

/-! ### The rule every setter follows (R80) -/

theorem State.setReg_shut (n : Option ConfigRegs) (s : State) : s.setReg false n = .next (s.refuse .locked) := rfl

theorem State.setReg_some (c : ConfigRegs) (s : State) : s.setReg true (some c) = .next { s with cfg := c } := rfl

/-- The lock comes before the value, the value before the write (30_encoding.md R69). -/
theorem State.setReg_legalIf (isOpen ok : Bool) (c : ConfigRegs) (s : State) :
    s.setReg isOpen (legalIf ok c) = .next
      (if isOpen = false then s.refuse .locked else if ok = false then s.refuse .badvalue else { s with cfg := c }) := by
  cases isOpen
  case false => rfl
  case true => cases ok <;> rfl

theorem setterRule_of_setReg {isOpen : Life → Bool} {legal : Nat → Bool} {ins : Nat → Instr}
    {upd : Nat → ConfigRegs → ConfigRegs}
    (h : ∀ v s, exec (ins v) s = s.setReg (isOpen s.life) (legalIf (legal v) (upd v s.cfg))) :
    SetterRule isOpen legal ins upd := by
  intro v s
  rw [h, State.setReg_legalIf]

/-! ### The timing setters (R101, R102) -/

theorem exec_setfps (v : Nat) (s : State) :
    exec (.setfps v) s = s.setTiming (decide (v ≤ 65535)) (BitVec.ofNat 16 v) s.cfg.bushz := rfl

theorem exec_setbushz (v : Nat) (s : State) :
    exec (.setbushz v) s = s.setTiming (decide (1 ≤ v ∧ v ≤ 2 ^ 32 - 1)) s.cfg.fps (BitVec.ofNat 32 v) := rfl

section Timing

variable {s : State} {fps : BitVec 16} {bushz : BitVec 32}

theorem State.setTiming_illegal : s.setTiming false fps bushz = .next (s.refuse .badvalue) := rfl

theorem State.setTiming_uninit (hl : s.life = .uninit) :
    s.setTiming true fps bushz = .next { s with cfg := { s.cfg with fps := fps, bushz := bushz } } := by
  simp [State.setTiming, Life.isUninit_eq_decide, hl]

theorem State.setTiming_overflow (hl : s.life ≠ .uninit) (ht : s.ticksWith fps.toNat bushz.toNat = none) :
    s.setTiming true fps bushz = .next (s.refuse .badvalue) := by
  simp [State.setTiming, Life.isUninit_eq_decide, hl, ht]

theorem State.setTiming_ticks (hl : s.life ≠ .uninit) {t : Nat} (ht : s.ticksWith fps.toNat bushz.toNat = some t) :
    s.setTiming true fps bushz = .next { s with
      cfg := { s.cfg with fps := fps, bushz := bushz }
      der := { s.der with baseticks := BitVec.ofNat 32 t } } := by
  simp [State.setTiming, Life.isUninit_eq_decide, hl, ht]

end Timing

/-! ### Geometry and derived sizes (R82, R84) -/

theorem geometryOk_iff (c : ConfigRegs) : geometryOk c = true ↔
    ((c.muxbits.toNat = 3 ∨ c.muxbits.toNat = 4 ∨ c.muxbits.toNat = 5) ∧
      8 ≤ c.width.toNat ∧ c.width.toNat % 8 = 0 ∧
      2 ^ c.muxbits.toNat ≤ c.height.toNat ∧ c.height.toNat % 2 ^ c.muxbits.toNat = 0 ∧ c.bushz.toNat ≠ 0) :=
  decide_eq_true_iff

/-- The derived registers hold the sizes of R84, said of the registers themselves. -/
structure State.SizesExact (s : State) : Prop where
  rowpattern : s.der.rowpattern.toNat = 2 ^ s.cfg.muxbits.toNat
  w8 : 8 * s.der.w8.toNat = s.cfg.width.toNat
  nrows : s.der.rowpattern.toNat * s.der.nrows.toNat = s.cfg.height.toNat
  pcb : s.der.pcb.toNat = s.der.nrows.toNat * s.der.w8.toNat
  sbs : s.der.sbs.toNat = 3 * s.der.pcb.toNat
  bufsize : s.der.bufsize.toNat = s.der.rowpattern.toNat * s.der.sbs.toNat
  fbsize : s.der.fbsize.toNat = s.cfg.colordepth.toNat * s.der.bufsize.toNat
  nbuf : s.der.nbuf.toNat = if s.cfg.dbuf then 2 else 1
  memory : s.fb.size = s.der.nbuf.toNat * s.der.fbsize.toNat
  pcb_pos : 0 < s.der.pcb.toNat

theorem State.Inv.sizesExact {s : State} (hi : s.Inv) (hl : s.life ≠ .uninit) : s.SizesExact := by
  have hini := hi.initialised hl
  have hexact := derivedOf_exact s.cfg s.der.baseticks.toNat hini.geometry hi.widthLegal hi.heightLegal
    hi.colordepthLegal
  simp only [← hini.derived] at hexact
  obtain ⟨hrp, hw8, hnrows, hpcb, hsbs, hbuf, hfb, hnbuf, -, zrp, zw8, znrows, zpcb, zsbs, zbuf, zfb, -, -, zpos, -⟩ :=
    hexact
  exact {
    rowpattern := hrp.trans zrp
    w8 := by rw [hw8, zw8]
    nrows := by rw [hrp, hnrows, znrows]
    pcb := by rw [hpcb, hnrows, hw8, zpcb]
    sbs := by rw [hsbs, hpcb, zsbs]
    bufsize := by rw [hbuf, hrp, hsbs, zbuf]
    fbsize := by rw [hfb, hbuf, zfb]
    nbuf := hnbuf
    memory := by rw [hini.memory, hnbuf, hfb]
    pcb_pos := by rw [hpcb]; exact zpos }

/-- A bit-plane holds the three channels of every pixel, one bit each (R84). -/
theorem State.SizesExact.bufsize_bits {s : State} (h : s.SizesExact) :
    8 * s.der.bufsize.toNat = s.cfg.height.toNat * s.cfg.width.toNat * 3 := by
  rw [h.bufsize, h.sbs, h.pcb, ← h.nrows, ← h.w8]
  ring

/-! ### ROWOFF (R87) -/

theorem State.Initialised.rowOff_eq {s : State} (h : s.Initialised) {y : Nat} (hy : y < s.cfg.height.toNat) :
    s.rowOff y = rowOffEntry s.der.rowpattern.toNat s.der.sbs.toNat y := by
  simp [State.rowOff, h.rowoff, rowOffTable, hy]

/-- The scan group of a row ends inside its bit-plane. -/
theorem scanGroup_end_le {rp : Nat} (hrp : 0 < rp) (sbs y : Nat) : y % rp * sbs + sbs ≤ rp * sbs := by
  rw [← Nat.succ_mul]
  exact Nat.mul_le_mul_right sbs (Nat.mod_lt y hrp)

theorem rowOffEntry_toNat {rp sbs : Nat} (hrp : 0 < rp) (hfit : rp * sbs < 2 ^ 32) (y : Nat) :
    (rowOffEntry rp sbs y).toNat = y % rp * sbs + sbs - 1 := by
  have hend := scanGroup_end_le hrp sbs y
  rw [rowOffEntry, BitVec.toNat_ofNat, Nat.mod_eq_of_lt (by omega)]

/-! ### The Gray code and MUXSEQ (R86) -/

theorem gray_eq (i : Nat) : gray i = i ^^^ (i / 2) := by rw [gray, Nat.shiftRight_one]

theorem gray_lt {m i : Nat} (h : i < 2 ^ m) : gray i < 2 ^ m := by
  rw [gray_eq]
  exact Nat.xor_lt_two_pow h (by omega)

/-- The Gray code is linear, so the lines two positions differ in depend on their difference alone. -/
theorem gray_xor (i j : Nat) : gray i ^^^ gray j = gray (i ^^^ j) := by
  simp only [gray, Nat.shiftRight_xor_distrib]
  ac_rfl

theorem gray_ones (k : Nat) : gray (2 ^ (k + 1) - 1) = 2 ^ k := by
  apply Nat.eq_of_testBit_eq
  intro j
  simp only [gray, Nat.testBit_xor, Nat.testBit_shiftRight, Nat.testBit_two_pow_sub_one, Nat.testBit_two_pow]
  by_cases hj : j = k
  · simp [hj]
  · by_cases hlt : j < k
    · simp [show j < k + 1 by omega, show 1 + j < k + 1 by omega, Ne.symm hj]
    · simp [show ¬ j < k + 1 by omega, show ¬ 1 + j < k + 1 by omega, Ne.symm hj]

/-- Counting up flips the lowest bits of a number, up to the first 1 of the new one. -/
theorem succ_xor_eq_ones (i : Nat) : ∃ k, (i + 1) ^^^ i = 2 ^ (k + 1) - 1 := by
  induction i using Nat.strong_induction_on with
  | _ i ih =>
    have hmod : ((i + 1) ^^^ i) % 2 = 1 := by rw [Nat.xor_mod_two_eq]; omega
    have hdiv : ((i + 1) ^^^ i) / 2 = (i + 1) / 2 ^^^ i / 2 := Nat.xor_div_two
    obtain ⟨j, hj | hj⟩ := Nat.even_or_odd' i
    · rw [show (i + 1) / 2 = i / 2 by omega, Nat.xor_self] at hdiv
      exact ⟨0, by omega⟩
    · obtain ⟨k, hk⟩ := ih j (by omega)
      rw [show (i + 1) / 2 = j + 1 by omega, show i / 2 = j by omega, hk] at hdiv
      have hpos := Nat.two_pow_pos (k + 1)
      exact ⟨k + 1, by rw [pow_succ]; omega⟩

/-- From the position before it, also across the wrap, a position differs in a run of lowest bits. -/
theorem position_xor_previous_eq_ones {m i : Nat} (hm : 0 < m) (hi : i < 2 ^ m) :
    ∃ k, i ^^^ (i + 2 ^ m - 1) % 2 ^ m = 2 ^ (k + 1) - 1 := by
  cases i with
  | zero =>
    refine ⟨m - 1, ?_⟩
    rw [Nat.zero_add, Nat.mod_eq_of_lt (by omega), Nat.zero_xor, Nat.sub_add_cancel hm]
  | succ i =>
    rw [show i + 1 + 2 ^ m - 1 = i + 2 ^ m by omega, Nat.add_mod_right, Nat.mod_eq_of_lt (by omega)]
    exact succ_xor_eq_ones i

/-- Neighbouring Gray codes differ in one bit, also across the wrap. -/
theorem gray_xor_previous {m i : Nat} (hm : 0 < m) (hi : i < 2 ^ m) :
    ∃ k < m, gray i ^^^ gray ((i + 2 ^ m - 1) % 2 ^ m) = 2 ^ k := by
  obtain ⟨k, hk⟩ := position_xor_previous_eq_ones hm hi
  have hone : gray i ^^^ gray ((i + 2 ^ m - 1) % 2 ^ m) = 2 ^ k := by rw [gray_xor, hk, gray_ones]
  have hlt := Nat.xor_lt_two_pow (gray_lt hi) (gray_lt (Nat.mod_lt (i + 2 ^ m - 1) (Nat.two_pow_pos m)))
  rw [hone] at hlt
  exact ⟨k, (Nat.pow_lt_pow_iff_right Nat.one_lt_two).1 hlt, hone⟩

theorem addrLines_two_pow : ∀ k < 5, addrLines (2 ^ k) = 1#7 <<< k := by decide

theorem and_two_pow_ne_zero_iff (n k : Nat) : n &&& 2 ^ k ≠ 0 ↔ n.testBit k = true := by
  rw [Nat.and_two_pow]
  cases n.testBit k <;> simp

/-- A MUXSEQ entry where its Gray code and the one before it differ in the one line `k`. -/
theorem muxSeqEntry_of_line {rp i k : Nat} (hk : k < 5) (h : gray i ^^^ gray ((i + rp - 1) % rp) = 2 ^ k) (sbs : Nat) :
    muxSeqEntry rp sbs i = {
      cmd := if (gray i).testBit k then .set else .clr
      mask := 1#7 <<< k
      offset := BitVec.ofNat 32 (gray i * sbs) } := by
  simp only [muxSeqEntry, h, addrLines_two_pow k hk, and_two_pow_ne_zero_iff]

theorem muxSeqTable_getElem? {rp i : Nat} (hi : i < rp) (sbs : Nat) :
    (muxSeqTable rp sbs)[i]? = some (muxSeqEntry rp sbs i) := by
  simp [muxSeqTable, hi]

end Sys2Proof.Machine

/-! ### The obligations -/

namespace Sys2Proof.Proofs

open Sys2Proof.Machine

/-- Settles O9: the four setters follow the one rule of R80 under the lock {UNINIT}. -/
theorem geometrySettersWrite : Obligations.GeometrySettersWrite := by
  refine ⟨⟨?width, setterEncoded_of_setterOf fun _ => rfl⟩, ⟨?height, setterEncoded_of_setterOf fun _ => rfl⟩,
    ⟨?muxbits, setterEncoded_of_setterOf fun _ => rfl⟩, ?dbuf, setterEncoded_of_setterOf fun _ => rfl⟩
  case width =>
    refine setterRule_of_setReg fun v s => ?_
    simp only [exec, execSetwidth, Life.geometryOpen_eq_decide]
  case height =>
    refine setterRule_of_setReg fun v s => ?_
    simp only [exec, execSetheight, Life.geometryOpen_eq_decide]
  case muxbits =>
    refine setterRule_of_setReg fun v s => ?_
    simp only [exec, execSetmuxbits, Life.geometryOpen_eq_decide]
  case dbuf =>
    refine setterRule_of_setReg fun v s => ?_
    simp only [exec, execSetdbuf, Life.geometryOpen_eq_decide, bitOf_eq, map_ite_some]

/-- Settles O10: every value is legal, so the lock alone decides. -/
theorem colordepthIsClamped : Obligations.ColordepthIsClamped := by
  refine ⟨fun v s => ?_, setterEncoded_of_setterOf fun _ => rfl⟩
  simp only [exec, execSetcolordepth, Life.geometryOpen_eq_decide]
  by_cases hl : s.life = .uninit
  · rw [decide_eq_true hl, State.setReg_some, if_pos hl, clampColordepth]
  · rw [decide_eq_false hl, State.setReg_shut, if_neg hl]

/-- Settles O11: the seven setters follow the one rule of R80 under the lock {UNINIT, IDLE}; an enumerated register
holds the entry of its table at the operand. -/
theorem translatorSettersWrite : Obligations.TranslatorSettersWrite := by
  refine ⟨⟨?panels, setterEncoded_of_setterOf fun _ => rfl⟩, ⟨?rotate, setterEncoded_of_setterOf fun _ => rfl⟩,
    ⟨?flip, setterEncoded_of_setterOf fun _ => rfl⟩, ⟨?colororder, setterEncoded_of_setterOf fun _ => rfl⟩,
    ⟨?scanpattern, setterEncoded_of_setterOf fun _ => rfl⟩, ⟨?blockpattern, setterEncoded_of_setterOf fun _ => rfl⟩,
    ?coloroffset, setterEncoded_of_setterOf fun _ => rfl⟩
  case panels => exact setterRule_of_setReg fun _ _ => rfl
  case coloroffset => exact setterRule_of_setReg fun _ _ => rfl
  case rotate =>
    refine setterRule_of_setReg fun v s => ?_
    simp only [exec, execSetrotate, Life.translatorOpen_eq, bitOf_eq, map_ite_some]
  case flip =>
    refine setterRule_of_setReg fun v s => ?_
    simp only [exec, execSetflip, Life.translatorOpen_eq, bitOf_eq, map_ite_some]
  case colororder =>
    refine setterRule_of_setReg fun v s => ?_
    simp only [exec, execSetcolororder, Life.translatorOpen_eq, colorOrderOf_eq, map_ite_some]
  case scanpattern =>
    refine setterRule_of_setReg fun v s => ?_
    simp only [exec, execSetscanpattern, Life.translatorOpen_eq, scanPatternOf_eq, map_ite_some]
  case blockpattern =>
    refine setterRule_of_setReg fun v s => ?_
    simp only [exec, execSetblockpattern, Life.translatorOpen_eq, blockPatternOf_eq, map_ite_some]

/-- Settles O12: the rule of R80 with a lock that is always open. -/
theorem brightnessIsStored : Obligations.BrightnessIsStored :=
  ⟨setterRule_of_setReg fun _ _ => rfl, setterEncoded_of_setterOf fun _ => rfl⟩

/-- Settles O13: by the four outcomes of a timing setter; a legal FPS fits its register. -/
theorem fpsRecomputesBaseticks : Obligations.FpsRecomputesBaseticks := by
  refine ⟨fun v s => ?_, setterEncoded_of_setterOf fun _ => rfl⟩
  rw [exec_setfps]
  by_cases hv : 65535 < v
  · rw [if_pos hv, decide_eq_false (by omega), State.setTiming_illegal]
  rw [if_neg hv, decide_eq_true (by omega)]
  by_cases hl : s.life = .uninit
  · rw [if_pos hl, State.setTiming_uninit hl]
  rw [if_neg hl]
  have hfps : (BitVec.ofNat 16 v).toNat = v := by rw [BitVec.toNat_ofNat]; omega
  split
  next ht => exact State.setTiming_overflow hl (by rw [hfps]; exact ht)
  next t ht => exact State.setTiming_ticks hl (by rw [hfps]; exact ht)

/-- Settles O14: by the four outcomes of a timing setter; a legal BUSHZ fits its register. -/
theorem bushzRecomputesBaseticks : Obligations.BushzRecomputesBaseticks := by
  refine ⟨fun v s => ?_, setterEncoded_of_setterOf fun _ => rfl⟩
  rw [exec_setbushz]
  by_cases hv : v < 1 ∨ 2 ^ 32 - 1 < v
  · rw [if_pos hv, decide_eq_false (by omega), State.setTiming_illegal]
  rw [if_neg hv, decide_eq_true (by omega)]
  by_cases hl : s.life = .uninit
  · rw [if_pos hl, State.setTiming_uninit hl]
  rw [if_neg hl]
  have hbushz : (BitVec.ofNat 32 v).toNat = v := by rw [BitVec.toNat_ofNat]; omega
  split
  next ht => exact State.setTiming_overflow hl (by rw [hbushz]; exact ht)
  next t ht => exact State.setTiming_ticks hl (by rw [hbushz]; exact ht)

/-- Settles O17: `geometryOk` decides exactly the conjunction of R82. -/
theorem geometryCheck : Obligations.GeometryCheck := geometryOk_iff

/-- Settles O18: the invariant says the registers are the derived ones, and `derivedOf_exact` that none truncates. -/
theorem derivedSizesExact : Obligations.DerivedSizesExact := by
  intro s hi hl
  have h := hi.sizesExact hl
  exact ⟨h.rowpattern, h.w8, h.nrows, h.pcb, h.sbs, h.bufsize_bits, h.bufsize, h.fbsize, h.nbuf, h.memory, h.pcb_pos⟩

/-- Settles O20: the Gray code is linear, and a position and the one before it differ in a run of lowest bits. -/
theorem muxSequenceIsGray : Obligations.MuxSequenceIsGray := by
  refine ⟨fun m hm i hi sbs => ?_, fun i _ => gray_eq i, by decide, by decide, by decide⟩
  have hdepth : 0 < m ∧ m ≤ 5 := by
    simp only [List.mem_cons, List.not_mem_nil, or_false] at hm
    omega
  obtain ⟨k, hk, hline⟩ := gray_xor_previous hdepth.1 hi
  refine ⟨k, hk, hline, ?_⟩
  rw [muxSeqTable_getElem? hi, muxSeqEntry_of_line (by omega) hline]

/-- Settles O21: every scan group ends inside a bit-plane of BUFSIZE bytes, so no entry truncates. -/
theorem rowOffTable : Obligations.RowOffTable := by
  intro s hi hl y hy
  have hsizes := hi.sizesExact hl
  have hrp : 0 < s.der.rowpattern.toNat := hsizes.rowpattern ▸ Nat.two_pow_pos _
  have hfit : s.der.rowpattern.toNat * s.der.sbs.toNat < 2 ^ 32 := hsizes.bufsize ▸ s.der.bufsize.isLt
  rw [(hi.initialised hl).rowOff_eq hy, rowOffEntry_toNat hrp hfit]

end Sys2Proof.Proofs

/-! PROOFS. The translator family (41_translator.md): the values on the wires (R111, R116, R117). -/

namespace Sys2Proof.Machine

/-! ### The three steps on channel values, as arithmetic -/

/-- The bytes of COLOROFFSET, red highest (10_state.md R15). -/
theorem offsetFloors_eq (v : BitVec 24) : offsetFloors v = ⟨v.toNat / 65536, v.toNat / 256 % 256, v.toNat % 256⟩ := by
  have hv : v.toNat < 2 ^ 24 := v.isLt
  have hred : v.toNat / 65536 % 256 = v.toNat / 65536 := Nat.mod_eq_of_lt (by omega)
  simp [offsetFloors, BitVec.extractLsb'_toNat, Nat.shiftRight_eq_div_pow, hred]

/-- Subtraction floored at 0 (R111) is subtraction of natural numbers. -/
theorem colorOffset_eq (floors ch : Channels) :
    colorOffset floors ch = ⟨ch.red - floors.red, ch.green - floors.green, ch.blue - floors.blue⟩ := by
  have floored (a b : Nat) : (max ((a : Int) - b) 0).toNat = a - b := by omega
  simp only [colorOffset, floored]

/-- The right shift of R117 divides by a power of two. -/
theorem quantise_eq (colordepth : Nat) (ch : Channels) :
    quantise colordepth ch =
      ⟨ch.red / 2 ^ (8 - colordepth), ch.green / 2 ^ (8 - colordepth), ch.blue / 2 ^ (8 - colordepth)⟩ := by
  simp only [quantise, Nat.shiftRight_eq_div_pow]

/-! ### The range of the channel values -/

/-- Every channel value is below `n`. -/
structure Channels.Below (n : Nat) (ch : Channels) : Prop where
  red : ch.red < n
  green : ch.green < n
  blue : ch.blue < n

/-- The offset only lowers a value (R111). -/
theorem Channels.Below.colorOffset {n : Nat} {ch : Channels} (h : ch.Below n) (floors : Channels) :
    (colorOffset floors ch).Below n := by
  rw [colorOffset_eq]
  exact ⟨Nat.sub_lt_of_lt h.red, Nat.sub_lt_of_lt h.green, Nat.sub_lt_of_lt h.blue⟩

/-- The order moves values between the wires and makes no new one (R116). -/
theorem Channels.Below.colorWires {n : Nat} {ch : Channels} (h : ch.Below n) (order : ColorOrder) :
    (colorWires order ch).Below n := by
  obtain ⟨hred, hgreen, hblue⟩ := h
  cases order <;> constructor <;> assumption

/-- Dropping the lowest `8 - d` bits of an 8-bit value leaves `d` bits (R117). -/
theorem Channels.Below.quantise {d : Nat} {ch : Channels} (h : ch.Below (2 ^ 8)) (hd : d ≤ 8) :
    (quantise d ch).Below (2 ^ d) := by
  have hsplit : 2 ^ 8 = 2 ^ (8 - d) * 2 ^ d := by rw [← Nat.pow_add, Nat.sub_add_cancel hd]
  rw [hsplit] at h
  rw [quantise_eq]
  exact ⟨Nat.div_lt_of_lt_mul h.red, Nat.div_lt_of_lt_mul h.green, Nat.div_lt_of_lt_mul h.blue⟩

/-- The wire values of an 8-bit pixel have COLORDEPTH bits (R117). -/
theorem State.wireValues_below {s : State} {ch : Channels} (h : ch.Below (2 ^ 8)) (hd : s.cfg.colordepth.toNat ≤ 8) :
    (s.wireValues ch).Below (2 ^ s.cfg.colordepth.toNat) :=
  ((h.colorOffset _).colorWires _).quantise hd

end Sys2Proof.Machine

namespace Sys2Proof.Proofs

open Sys2Proof.Machine

/-- Settles O23: the three steps as arithmetic, one case per colour order; offset and order keep an 8-bit value 8-bit,
and quantisation leaves COLORDEPTH bits of it. -/
theorem wireValuesOfPixel : Obligations.WireValuesOfPixel := by
  intro s r g b hr hg hb _ hd off r1 g1 b1 shift
  have hpixel : (⟨r, g, b⟩ : Channels).Below (2 ^ 8) :=
    ⟨Nat.lt_succ_of_le hr, Nat.lt_succ_of_le hg, Nat.lt_succ_of_le hb⟩
  obtain ⟨hred, hgreen, hblue⟩ := State.wireValues_below hpixel hd
  refine ⟨?_, hred, hgreen, hblue⟩
  rw [State.wireValues, offsetFloors_eq, colorOffset_eq, quantise_eq]
  cases s.cfg.colororder <;> rfl

end Sys2Proof.Proofs

/-! PROOFS. The frame-buffer family (42_framebuffer.md): SETPIXEL565 and GETPIXEL (R141, R143), CLEAR and COPY as block
commands of FBSIZE byte steps (R144, R146), and SWAP (R145). -/

namespace Sys2Proof

/-! ### Encoding of SETPIXEL565 and GETPIXEL -/

theorem decode_setpixel565 (x y c : BitVec 16) :
    decode (encodeH 0x09#8 x y c) = .ok (.setpixel565 x.toInt y.toInt c.toNat) := by
  have hrow : decode (encodeH 0x09#8 x y c) = decodeH (encodeH 0x09#8 x y c) := by
    rw [decode, opcField, encodeH_opc]
    rfl
  rw [hrow, decodeH, encodeH_zero, encodeH_x, encodeH_y, encodeH_c, needZero_zero]
  rfl

/-- Format G with any value in its zero field (30_encoding.md R61, R65); `encodeG` writes only 0 there. -/
theorem decode_getpixel (x y : BitVec 16) (z : BitVec 24) :
    decode (0x0A#8 ++ x ++ y ++ z : BitVec 64) = needZero z (.getpixel x.toInt y.toInt) := by
  have hopc : wordField (0x0A#8 ++ x ++ y ++ z : BitVec 64) 56 8 = 0x0A#8 := by
    unfold wordField
    erw [extract_high _ _ _ _ (by decide), extract_high _ _ _ _ (by decide), extract_high _ _ _ _ (by decide),
      extract_all]
  have hx : wordField (0x0A#8 ++ x ++ y ++ z : BitVec 64) 40 16 = x := by
    unfold wordField
    erw [extract_high _ _ _ _ (by decide), extract_high _ _ _ _ (by decide), extract_low _ _ _ _ (by decide),
      extract_all]
  have hy : wordField (0x0A#8 ++ x ++ y ++ z : BitVec 64) 24 16 = y := by
    unfold wordField
    erw [extract_high _ _ _ _ (by decide), extract_low _ _ _ _ (by decide), extract_all]
  have hz : wordField (0x0A#8 ++ x ++ y ++ z : BitVec 64) 0 24 = z := by
    unfold wordField
    erw [extract_low _ _ _ _ (by decide), extract_all]
  have hrow : decode (0x0A#8 ++ x ++ y ++ z : BitVec 64) = decodeG (0x0A#8 ++ x ++ y ++ z : BitVec 64) := by
    rw [decode, opcField, hopc]
    rfl
  rw [hrow, decodeG, hx, hy, hz]
  rfl

end Sys2Proof

namespace Sys2Proof.Machine

/-! ### The buffers in memory (10_state.md R18, R21) -/

section Buffers

variable {s : State}

theorem State.Inv.fbsize_pos (hi : s.Inv) (hl : s.life ≠ .uninit) : 0 < s.der.fbsize.toNat := by
  have hsizes := hi.sizesExact hl
  rw [hsizes.fbsize, hsizes.bufsize, hsizes.sbs, hsizes.rowpattern]
  have hdepth := hi.colordepthLegal.1
  have hpcb := hsizes.pcb_pos
  positivity

/-- Storage 0 exists with one buffer, storage 0 and storage 1 with two. -/
theorem State.SizesExact.bufferAt_storageBase (h : s.SizesExact) {storage1 : Bool}
    (hst : storage1 = true → s.cfg.dbuf = true) : s.bufferAt (s.storageBase storage1) := by
  rw [State.bufferAt, State.storageBase, h.memory, h.nbuf]
  cases storage1 with
  | false => cases s.cfg.dbuf <;> simp only [Bool.false_eq_true, if_false, if_true] <;> omega
  | true => rw [if_pos rfl, if_pos (hst rfl), Nat.two_mul]

theorem State.SizesExact.bufferAt_dispBase (h : s.SizesExact) : s.bufferAt s.dispBase := by
  rw [State.dispBase]
  split
  next hd => exact h.bufferAt_storageBase fun _ => hd
  next => exact h.bufferAt_storageBase (storage1 := false) nofun

theorem State.SizesExact.bufferAt_editBase (h : s.SizesExact) : s.bufferAt s.editBase := by
  rw [State.editBase]
  split
  next hd => exact h.bufferAt_storageBase fun _ => hd
  next => exact h.bufferAt_storageBase (storage1 := false) nofun

/-- Two buffers of FBSIZE bytes at these bases share no byte. -/
def State.buffersApart (s : State) (b c : Nat) : Prop :=
  b + s.der.fbsize.toNat ≤ c ∨ c + s.der.fbsize.toNat ≤ b

theorem State.buffersApart.symm {b c : Nat} (h : s.buffersApart b c) : s.buffersApart c b := Or.symm h

/-- With two buffers the roles are played by different storages (R18). -/
theorem State.buffersApart_disp_edit (hd : s.cfg.dbuf = true) : s.buffersApart s.dispBase s.editBase := by
  rw [State.buffersApart, State.dispBase, State.editBase, if_pos hd, if_pos hd]
  cases s.sel
  · exact .inl (by simp [State.storageBase])
  · exact .inr (by simp [State.storageBase])

theorem State.roleBase_eq (s : State) (sel : BufferRole) :
    s.roleBase sel = if sel = .edit then s.editBase else s.dispBase := by
  cases sel <;> rfl

theorem State.SizesExact.bufferAt_roleBase (h : s.SizesExact) (sel : BufferRole) : s.bufferAt (s.roleBase sel) := by
  cases sel
  · exact h.bufferAt_editBase
  · exact h.bufferAt_dispBase

end Buffers

/-! ### A command that goes through a whole buffer -/

/-- A command of FBSIZE byte steps whose k-th writes `f` of byte k of the buffer at `src` to byte k of the buffer at
`dst`, the two buffers being the same or apart: what its first `n` steps leave. -/
theorem hostByteSteps_block {s : State} {op : Nat → HostOp} {src dst : Nat} {f : Byte → Byte}
    (hstep : ∀ t : State, t.der = s.der → ∀ k, t.hostOp = op k →
      t.hostByteStep = t.byteStep (src + k : Nat) (dst + k : Nat) f (afterStep k s.der.fbsize.toNat (op (k + 1))))
    (hpos : 0 < s.der.fbsize.toNat) (hsrc : s.bufferAt src) (hdst : s.bufferAt dst)
    (hsep : src = dst ∨ s.buffersApart src dst) {n : Nat} (hn : n ≤ s.der.fbsize.toNat) :
    ∃ t, ({ s with hostOp := op 0 } : State).hostByteSteps n = .next t ∧
      t = { s with fb := t.fb, hostOp := if n < s.der.fbsize.toNat then op n else .ready } ∧
      ∀ a : Int, t.fb.read a =
        if (dst : Int) ≤ a ∧ a < (dst + n : Int) then (s.fb.read (a - dst + src)).map f else s.fb.read a := by
  unfold State.bufferAt at hsrc hdst
  unfold State.buffersApart at hsep
  obtain ⟨t, hrun, hframe, hwritten, hkept⟩ := hostByteSteps_run
    (cfg := s.cfg) (der := s.der) (size := s.fb.size) (N := s.der.fbsize.toNat) (op := op)
    (src := fun k => (src + k : Nat)) (dst := fun k => (dst + k : Nat)) (f := fun _ => f)
    (fun t _ hder k _ hop => hstep t hder k hop) (by omega) (by omega) (by omega) (by omega)
    n 0 { s with hostOp := op 0 } (by omega) rfl rfl rfl (by rw [if_pos hpos])
  rw [Nat.zero_add] at hframe hwritten hkept
  refine ⟨t, hrun, hframe, fun a => ?_⟩
  split
  next hin =>
    obtain ⟨j, rfl⟩ : ∃ j : Nat, a = (dst + j : Nat) := ⟨(a - dst).toNat, by omega⟩
    rw [hwritten j (Nat.zero_le j) (by omega)]
    congr 2
    omega
  next hout => exact hkept a fun j _ hj => by omega

/-- CLEAR under way (42_framebuffer.md R144). -/
theorem hostByteSteps_clear {s : State} {base : Nat} (hpos : 0 < s.der.fbsize.toNat) (hbase : s.bufferAt base) {n : Nat}
    (hn : n ≤ s.der.fbsize.toNat) :
    ∃ t, ({ s with hostOp := .clear base 0 } : State).hostByteSteps n = .next t ∧
      t = { s with fb := t.fb, hostOp := if n < s.der.fbsize.toNat then .clear base n else .ready } ∧
      ∀ a : Int, t.fb.read a = if (base : Int) ≤ a ∧ a < (base + n : Int) then some 0#8 else s.fb.read a := by
  obtain ⟨t, hrun, hframe, hread⟩ := hostByteSteps_block (s := s) (op := .clear base) (f := fun _ => 0#8)
    (fun t hder k hop => by simp only [State.hostByteStep, hop, State.clearStep, hder]) hpos hbase hbase (.inl rfl) hn
  refine ⟨t, hrun, hframe, fun a => ?_⟩
  rw [hread a]
  split
  next hin =>
    have hlt : a < (s.fb.size : Int) := by unfold State.bufferAt at hbase; omega
    rw [Int.sub_add_cancel, Memory.read_eq_some (by omega) hlt]
    rfl
  next => rfl

/-- COPY under way between two buffers (42_framebuffer.md R146). -/
theorem hostByteSteps_copy {s : State} {src dst : Nat} (hpos : 0 < s.der.fbsize.toNat) (hsrc : s.bufferAt src)
    (hdst : s.bufferAt dst) (hapart : s.buffersApart src dst) {n : Nat} (hn : n ≤ s.der.fbsize.toNat) :
    ∃ t, ({ s with hostOp := .copy src dst 0 } : State).hostByteSteps n = .next t ∧
      t = { s with fb := t.fb, hostOp := if n < s.der.fbsize.toNat then .copy src dst n else .ready } ∧
      ∀ a : Int, t.fb.read a =
        if (dst : Int) ≤ a ∧ a < (dst + n : Int) then s.fb.read (a - dst + src) else s.fb.read a := by
  obtain ⟨t, hrun, hframe, hread⟩ := hostByteSteps_block (s := s) (op := .copy src dst) (f := fun v => v)
    (fun t hder k hop => by simp only [State.hostByteStep, hop, State.copyStep, hder]) hpos hsrc hdst (.inr hapart) hn
  exact ⟨t, hrun, hframe, fun a => by rw [hread a, Option.map_id']⟩

/-! ### First steps -/

section FirstSteps

variable {s : State}

theorem exec_clear_uninit (hl : s.life = .uninit) (sel : BufferRole) :
    exec (.clear sel) s = .next (s.refuse .notinit) := by
  simp only [exec, execClear, hl, Life.isUninit, if_true]

theorem exec_clear_start (hl : s.life ≠ .uninit) (hpos : 0 < s.der.fbsize.toNat) (sel : BufferRole) :
    exec (.clear sel) s = .next { s with hostOp := .clear (s.roleBase sel) 0 } := by
  simp [exec, execClear, Life.isUninit_eq_decide, hl, hpos]

theorem exec_copy_uninit (hl : s.life = .uninit) (dir : CopyDir) :
    exec (.copy dir) s = .next (s.refuse .notinit) := by
  simp only [exec, execCopy, hl, Life.isUninit, if_true]

theorem exec_copy_oneBuffer (hl : s.life ≠ .uninit) (hd : s.cfg.dbuf = false) (dir : CopyDir) :
    exec (.copy dir) s = .next s := by
  simp [exec, execCopy, Life.isUninit_eq_decide, hl, hd]

theorem exec_copy_start (hl : s.life ≠ .uninit) (hd : s.cfg.dbuf = true) (hpos : 0 < s.der.fbsize.toNat)
    (dir : CopyDir) :
    exec (.copy dir) s = .next { s with hostOp := .copy (s.copyBases dir).1 (s.copyBases dir).2 0 } := by
  simp [exec, execCopy, Life.isUninit_eq_decide, hl, hd, hpos]

theorem exec_swap_uninit (hl : s.life = .uninit) : exec .swap s = .next (s.refuse .notinit) := by
  simp only [exec, execSwap, hl, Life.isUninit, if_true]

theorem exec_swap_oneBuffer (hl : s.life ≠ .uninit) (hd : s.cfg.dbuf = false) : exec .swap s = .next s := by
  simp [exec, execSwap, Life.isUninit_eq_decide, hl, hd]

theorem exec_swap_idle (hl : s.life = .idle) (hd : s.cfg.dbuf = true) :
    exec .swap s = .next { s with sel := !s.sel } := by
  simp [exec, execSwap, Life.isUninit, hl, hd]

theorem exec_swap_armed {pos : RefreshPos} (hl : s.life = .armed pos) (hd : s.cfg.dbuf = true) :
    exec .swap s = .next { s with
      sel := !s.sel
      life := .armed { pos with
        cursor := BitVec.ofNat 32 (s.storageBase (!s.sel) + (s.muxEntry pos.row.toNat).offset.toNat
          + pos.plane.toNat * s.der.bufsize.toNat) } } := by
  simp [exec, execSwap, Life.isUninit, hl, hd, State.storageBase]

/-- Where the storage begins that SWAP makes the display buffer (R145). -/
theorem State.storageBase_not (s : State) (storage1 : Bool) :
    s.storageBase (!storage1) = if storage1 then 0 else s.der.fbsize.toNat := by
  cases storage1 <;> rfl

end FirstSteps

end Sys2Proof.Machine

namespace Sys2Proof.Proofs

open Sys2Proof.Machine

/-- Settles O34: the first step names the buffer of the role, which lies in memory, and the block run clears it. -/
theorem clearZeroesTheBuffer : Obligations.ClearZeroesTheBuffer := by
  refine ⟨by decide, by decide, fun s sel base hbase => ⟨fun hl => exec_clear_uninit hl sel, fun hi hl => ?_⟩⟩
  rw [← State.roleBase_eq] at hbase
  subst hbase
  have hpos := hi.fbsize_pos hl
  have hbuffer := (hi.sizesExact hl).bufferAt_roleBase sel
  exact ⟨_, exec_clear_start hl hpos sel, fun n hn => hostByteSteps_clear hpos hbuffer hn⟩

/-- Settles O35: with two buffers source and destination are apart, so no step reads what an earlier one wrote. -/
theorem copyDuplicatesTheBuffer : Obligations.CopyDuplicatesTheBuffer := by
  refine ⟨by decide, by decide, fun s dir src dst hsrc hdst => ⟨fun hl => exec_copy_uninit hl dir,
    fun hl hd => exec_copy_oneBuffer hl hd dir, fun hi hl hd => ?_⟩⟩
  have hpos := hi.fbsize_pos hl
  have hdisp := (hi.sizesExact hl).bufferAt_dispBase
  have hedit := (hi.sizesExact hl).bufferAt_editBase
  have hapart := State.buffersApart_disp_edit hd
  subst hsrc hdst
  cases dir with
  | d2e => exact ⟨_, exec_copy_start hl hd hpos .d2e, fun n hn => hostByteSteps_copy hpos hdisp hedit hapart hn⟩
  | e2d => exact ⟨_, exec_copy_start hl hd hpos .e2d, fun n hn => hostByteSteps_copy hpos hedit hdisp hapart.symm hn⟩

/-- Settles O32: the two commands share their first step, `State.startPixel`. -/
theorem setpixel565ExpandsTheColour : Obligations.Setpixel565ExpandsTheColour :=
  ⟨decode_setpixel565, fun _ _ _ c =>
    ⟨rfl, fun _ _ hl hdepth hplace => startPixel_place hl hdepth hplace (expand565 c)⟩⟩

/-- Settles O33: the zero field decides whether the word is legal; the command is one event of the trace. -/
theorem getpixelRespondsZero : Obligations.GetpixelRespondsZero := ⟨decode_getpixel, fun _ _ _ => rfl⟩

/-- Settles O36: by the four outcomes of SWAP; while ARMED the new CURSOR counts from the other storage. -/
theorem swapExchangesTheRoles : Obligations.SwapExchangesTheRoles := by
  refine ⟨by decide, fun s => ⟨exec_swap_uninit, exec_swap_oneBuffer, exec_swap_idle, fun pos hl hd => ?_⟩⟩
  rw [exec_swap_armed hl hd, State.storageBase_not]

end Sys2Proof.Proofs

/-! PROOFS. The scheduler family (43_scheduler.md): ENABLE (R161) and DISABLE (R162). -/

namespace Sys2Proof.Machine

/-! ### The address lines -/

/-- Address line `k` is pin `k` (00_scope.md R6), so a number on the five lines is the same number on the pins. -/
theorem addrLines_eq_ofNat : ∀ n < 2 ^ 5, addrLines n = BitVec.ofNat 7 n := by decide

/-- The lines in use are the lowest MUXBITS pins (R161). -/
theorem usedLines_eq_ofNat {muxbits : Nat} (h : muxbits ≤ 5) : usedLines muxbits = BitVec.ofNat 7 (2 ^ muxbits - 1) := by
  have hle : 2 ^ muxbits ≤ 2 ^ 5 := Nat.pow_le_pow_right Nat.two_pos h
  exact addrLines_eq_ofNat _ (by omega)

/-! ### What ENABLE and DISABLE answer in each state -/

section EnableDisable

variable {s : State}

theorem exec_enable_uninit (hl : s.life = .uninit) : exec .enable s = .next (s.refuse .notinit) := by
  simp only [exec, execEnable, hl, Life.isUninit, if_true]

theorem exec_enable_armed {pos : RefreshPos} (hl : s.life = .armed pos) :
    exec .enable s = .next (s.refuse .badstate) := by
  simp [exec, execEnable, hl, Life.isUninit, Life.isArmed]

/-- The refresh position starts at row 0 and bit-plane 0, its CURSOR at the first MUXSEQ entry of the display buffer. -/
theorem exec_enable_idle (hl : s.life = .idle) :
    exec .enable s = .next { s with
      gpo := s.gpo &&& ~~~usedLines s.cfg.muxbits.toNat
      life := .armed { row := 0#5, plane := 0#3, cursor := BitVec.ofNat 32 (s.dispBase + (s.muxEntry 0).offset.toNat) }
      tarmed := true
      tcount := s.der.baseticks
      trace := s.trace ++ [.gpoClr (usedLines s.cfg.muxbits.toNat), .timerArm s.der.baseticks] } := by
  simp [exec, execEnable, hl, Life.isUninit, Life.isArmed, State.gpoClr, State.timerArm]

theorem exec_disable_uninit (hl : s.life = .uninit) : exec .disable s = .next (s.refuse .notinit) := by
  simp only [exec, execDisable, hl, Life.isUninit, if_true]

/-- The serial engine and the timer count are not among the fields written: a transfer in flight goes on. -/
theorem exec_disable_ready (hl : s.life ≠ .uninit) :
    exec .disable s = .next { s with
      gpo := s.gpo &&& ~~~Config.oeMask
      life := .idle
      tarmed := false
      trace := s.trace ++ [.gpoClr Config.oeMask, .timerDetach] } := by
  simp [exec, execDisable, Life.isUninit_eq_decide, hl, State.gpoClr, State.timerDetach]

end EnableDisable

end Sys2Proof.Machine

namespace Sys2Proof.Proofs

open Sys2Proof.Machine

/-- Settles O40: one answer per state of the block; with MUXBITS at most 5, as INIT requires (R82), the lines ENABLE
clears are the lowest MUXBITS pins. -/
theorem enableArms : Obligations.EnableArms := by
  refine ⟨by decide, fun s => ⟨exec_enable_uninit, fun _ => exec_enable_armed, fun hl hm => ?_⟩⟩
  rw [exec_enable_idle hl, usedLines_eq_ofNat hm]

/-- Settles O41: IDLE and ARMED take the same branch of DISABLE. -/
theorem disableBlanks : Obligations.DisableBlanks :=
  ⟨by decide, fun _ => ⟨exec_disable_uninit, exec_disable_ready⟩⟩

end Sys2Proof.Proofs

/-! PROOFS. The decoder and the encoder (30_encoding.md): the round trip of R61 to R64 both ways, and the rows of the
opcode table as the words the decoder accepts. -/

namespace Sys2Proof

/-! ### Decoding an encoded command -/

theorem decode_encodeP (x y : BitVec 16) (r g b : BitVec 8) :
    decode (encodeP 0x08#8 x y r g b) = decodeP (encodeP 0x08#8 x y r g b) := by
  rw [decode, opcField, encodeP_opc]
  rfl

theorem decode_encodeH (x y c : BitVec 16) : decode (encodeH 0x09#8 x y c) = decodeH (encodeH 0x09#8 x y c) := by
  rw [decode, opcField, encodeH_opc]
  rfl

theorem decode_encodeG (x y : BitVec 16) : decode (encodeG 0x0A#8 x y) = decodeG (encodeG 0x0A#8 x y) := by
  rw [decode, opcField, encodeG_opc]
  rfl

/-- The word of a setter decodes to the setter its REG selects (R64). -/
theorem decode_setter {reg : BitVec 8} {v : Nat} {i : Instr} (hi : setterOf reg.toNat v = some i)
    (hv : decide (fieldOk 32 v) = true) : decode (encodeW reg (zfield 32 v)) = .ok i := by
  rw [decode_encodeW, decodeW_encodeW reg (of_decide_eq_true hv) hi]

/-! ### A decoded command in its format -/

theorem decodeZ_ok {w : Word} {i j : Instr} (h : decodeZ w i = .ok j) : j = i ∧ encodeZ (opcField w) = w := by
  obtain ⟨hz, rfl⟩ := needZero_ok h
  exact ⟨rfl, encodeZ_fields hz⟩

/-- The selector bit is 0 or 1, and each value names one command. -/
theorem decodeS_ok {w : Word} {s0 s1 j : Instr} (h : decodeS w s0 s1 = .ok j) :
    j = s0 ∧ encodeS (opcField w) 0#1 = w ∨ j = s1 ∧ encodeS (opcField w) 1#1 = w := by
  obtain ⟨hz, rfl⟩ := needZero_ok h
  have hw := encodeS_fields hz
  rcases BitVec.eq_zero_or_eq_one (wordField w 0 1) with hs | hs <;> rw [hs] at hw
  · exact .inl ⟨if_pos hs, hw⟩
  · exact .inr ⟨if_neg (by rw [hs]; decide), hw⟩

theorem decodeP_ok {w : Word} {i : Instr} (ho : opcField w = 0x08#8) (h : decodeP w = .ok i) :
    i.wellFormed = true ∧ encode i = w := by
  obtain rfl := Decoded.ok.inj h
  refine ⟨decide_eq_true ⟨sext16_coordOk _, sext16_coordOk _, BitVec.isLt _, BitVec.isLt _, BitVec.isLt _⟩, ?_⟩
  simp only [encode, sfield_sext16, zfield_of_toNat]
  rw [← ho, encodeP_fields]

theorem decodeH_ok {w : Word} {i : Instr} (ho : opcField w = 0x09#8) (h : decodeH w = .ok i) :
    i.wellFormed = true ∧ encode i = w := by
  obtain ⟨hz, rfl⟩ := needZero_ok h
  refine ⟨decide_eq_true ⟨sext16_coordOk _, sext16_coordOk _, BitVec.isLt _⟩, ?_⟩
  simp only [encode, sfield_sext16, zfield_of_toNat]
  rw [← ho, encodeH_fields hz]

theorem decodeG_ok {w : Word} {i : Instr} (ho : opcField w = 0x0A#8) (h : decodeG w = .ok i) :
    i.wellFormed = true ∧ encode i = w := by
  obtain ⟨hz, rfl⟩ := needZero_ok h
  refine ⟨decide_eq_true ⟨sext16_coordOk _, sext16_coordOk _⟩, ?_⟩
  simp only [encode, sfield_sext16]
  rw [← ho, encodeG_fields hz]

/-- A setter REG selects is encoded with that REG, and is well-formed where its operand fits (R62, R64). -/
theorem setterOf_some {reg : BitVec 8} {v : Nat} {i : Instr} (h : setterOf reg.toNat v = some i) :
    encode i = encodeW reg (zfield 32 v) ∧ i.wellFormed = decide (fieldOk 32 v) := by
  have hreg : reg = BitVec.ofNat 8 reg.toNat := by simp
  unfold setterOf at h
  split at h
  case h_16 => cases h
  all_goals
    rename_i hn
    rw [hn] at hreg
    obtain rfl := Option.some.inj h
    exact ⟨by rw [hreg]; rfl, rfl⟩

theorem decodeW_ok {w : Word} {i : Instr} (ho : opcField w = 0x10#8) (h : decodeW w = .ok i) :
    i.wellFormed = true ∧ encode i = w := by
  unfold decodeW at h
  split at h
  case h_1 j hj =>
    obtain ⟨hz, rfl⟩ := needZero_ok h
    obtain ⟨henc, hwf⟩ := setterOf_some hj
    rw [henc, hwf, zfield_of_toNat, encodeW_fields ho hz]
    exact ⟨decide_eq_true (BitVec.isLt _), rfl⟩
  case h_2 => cases h

end Sys2Proof

namespace Sys2Proof.Proofs

open Sys2Proof.Machine

/-- Settles O1: one case per command; OPC, and for a setter REG, name the command again, and each operand fits its
field. -/
theorem decodeOfEncode : Obligations.DecodeOfEncode := by
  intro i hwf
  cases i
  case init => decide
  case enable => decide
  case disable => decide
  case swap => decide
  case clear sel => cases sel <;> decide
  case copy dir => cases dir <;> decide
  case setpixel x y r g b =>
    obtain ⟨hx, hy, hr, hg, hb⟩ := of_decide_eq_true hwf
    rw [encode, decode_encodeP, decodeP_encodeP _ hx hy hr hg hb]
  case setpixel565 x y c =>
    obtain ⟨hx, hy, hc⟩ := of_decide_eq_true hwf
    rw [encode, decode_encodeH, decodeH_encodeH _ hx hy hc]
  case getpixel x y =>
    obtain ⟨hx, hy⟩ := of_decide_eq_true hwf
    rw [encode, decode_encodeG, decodeG_encodeG _ hx hy]
  all_goals exact decode_setter rfl hwf

/-- Settles O2: one case per row of the table of R63; a format's fields put the word together again. -/
theorem encodeOfDecode : Obligations.EncodeOfDecode := by
  intro w i h
  have hopc : opcField w = BitVec.ofNat 8 (opcField w).toNat := by simp
  unfold decode at h
  split at h
  case h_11 => cases h
  all_goals
    rename_i hn
    rw [hn] at hopc
  case h_5 =>
    rcases decodeS_ok h with ⟨rfl, hw⟩ | ⟨rfl, hw⟩ <;> rw [hopc] at hw <;> exact ⟨rfl, hw⟩
  case h_6 =>
    rcases decodeS_ok h with ⟨rfl, hw⟩ | ⟨rfl, hw⟩ <;> rw [hopc] at hw <;> exact ⟨rfl, hw⟩
  case h_7 => exact decodeP_ok hopc h
  case h_8 => exact decodeH_ok hopc h
  case h_9 => exact decodeG_ok hopc h
  case h_10 => exact decodeW_ok hopc h
  all_goals
    obtain ⟨rfl, hw⟩ := decodeZ_ok h
    rw [hopc] at hw
    exact ⟨rfl, hw⟩

end Sys2Proof.Proofs

namespace Sys2Proof

/-! ### The rows of the opcode table -/

/-- The encoded word of every command is a word of its own row. -/
theorem encode_mem_row (i : Instr) : Laws.EncodedRow.Statement i := by
  cases i
  case init => exact Laws.EncodedRow.init
  case enable => exact Laws.EncodedRow.enable
  case disable => exact Laws.EncodedRow.disable
  case swap => exact Laws.EncodedRow.swap
  case clear sel => exact Laws.EncodedRow.clear sel
  case copy dir => exact Laws.EncodedRow.copy dir
  case setpixel x y r g b => exact Laws.EncodedRow.setpixel x y r g b
  case setpixel565 x y c => exact Laws.EncodedRow.setpixel565 x y c
  case getpixel x y => exact Laws.EncodedRow.getpixel x y
  all_goals exact ⟨Laws.EncodedRow.formatW _ _, Laws.EncodedRow.rowOf_mem _⟩

/-- A field that a row's mask covers holds what the row's match holds there. -/
theorem wordField_of_row {w mask m : Word} (h : w &&& mask = m) {lo len : Nat}
    (hmask : wordField mask lo len = BitVec.allOnes len) : wordField w lo len = wordField m lo len := by
  have hand : wordField (w &&& mask) lo len = wordField w lo len &&& wordField mask lo len := by
    simp only [wordField, BitVec.extractLsb'_and]
  rw [← h, hand, hmask, BitVec.and_allOnes]

/-- A format without an operand in its zero field decodes. -/
theorem needZero_of_zero {n : Nat} {z : BitVec n} (hz : z = 0#n) (i : Instr) : ∃ j, needZero z i = .ok j :=
  ⟨i, by rw [hz, needZero_zero]⟩

/-- The word of a setter's row decodes, whatever its operand. -/
theorem decodes_of_setterRow {w m : Word} (h : w &&& 0xFFFFFFFF00000000#64 = m) (hopc : wordField m 56 8 = 0x10#8)
    (hzero : wordField m 32 16 = 0#16) (hreg : ∀ v, (setterOf (wordField m 48 8).toNat v).isSome = true) :
    ∃ i, decode w = .ok i := by
  have ho : opcField w = 0x10#8 := (wordField_of_row h (by decide)).trans hopc
  have hz : wordField w 32 16 = 0#16 := (wordField_of_row h (by decide)).trans hzero
  have hr : wordField w 48 8 = wordField m 48 8 := wordField_of_row h (by decide)
  obtain ⟨i, hi⟩ := Option.isSome_iff_exists.1 (hreg (wordField w 0 32).toNat)
  rw [← hr] at hi
  refine ⟨i, ?_⟩
  unfold decode
  rw [ho]
  show decodeW w = .ok i
  rw [decodeW, hi, hz]
  exact needZero_zero i

/-- A word of a row of the table decodes: OPC is the row's, and so are REG and the zero field of its format. -/
theorem decodes_of_row {w : Word} {row : Word × Word} (hrow : row ∈ opcodeRows) (h : w &&& row.1 = row.2) :
    ∃ i, decode w = .ok i := by
  simp only [opcodeRows, List.cons_append, List.nil_append, List.mem_cons, List.not_mem_nil, or_false] at hrow
  rcases hrow with rfl | rfl | rfl | rfl | rfl | rfl | rfl | rfl | rfl | hsetter
  case inr.inr.inr.inr.inr.inr.inr.inr.inr =>
    rcases hsetter with rfl | rfl | rfl | rfl | rfl | rfl | rfl | rfl | rfl | rfl | rfl | rfl | rfl | rfl | rfl <;>
      exact decodes_of_setterRow h (by decide) (by decide) (fun _ => rfl)
  all_goals
    have ho : opcField w = _ := wordField_of_row (lo := 56) (len := 8) h (by decide)
    unfold decode
    rw [ho]
  case inr.inr.inr.inr.inr.inr.inl => exact ⟨_, rfl⟩
  all_goals exact needZero_of_zero (wordField_of_row h (by decide)) _

/-- Two rows share no word: on the bits that both masks cover, their matches differ. -/
theorem opcodeRows_apart : opcodeRows.Pairwise fun a b => a.2 &&& b.1 ≠ b.2 &&& a.1 := by decide

theorem not_both_rows {w : Word} {a b : Word × Word} (h : a.2 &&& b.1 ≠ b.2 &&& a.1) :
    ¬ (w &&& a.1 = a.2 ∧ w &&& b.1 = b.2) := by
  rintro ⟨ha, hb⟩
  apply h
  rw [← ha, ← hb]
  ac_rfl

/-- Of pairwise exclusive properties a list has at most one member that holds. -/
theorem length_filter_le_one {α : Type} {p : α → Bool} {l : List α}
    (h : l.Pairwise fun a b => ¬ (p a = true ∧ p b = true)) : (l.filter p).length ≤ 1 := by
  have hpair := h.sublist (List.filter_sublist (p := p))
  have hp : ∀ a ∈ l.filter p, p a = true := fun a ha => (List.mem_filter.1 ha).2
  cases hl : l.filter p with
  | nil => simp
  | cons a as =>
    cases as with
    | nil => simp
    | cons b bs =>
      rw [hl] at hpair hp
      exact absurd ⟨hp a (by simp), hp b (by simp)⟩ (List.rel_of_pairwise_cons hpair (by simp))

end Sys2Proof

namespace Sys2Proof.Proofs

open Sys2Proof.Machine

/-- Settles O3: a decodable word is an encoded command, so of that command's row; and the rows' masks tell them
apart. -/
theorem decoderAcceptsTheTable : Obligations.DecoderAcceptsTheTable := by
  refine ⟨fun w => ⟨fun ⟨i, hi⟩ => ?_, fun ⟨_, hrow, hw⟩ => decodes_of_row hrow hw⟩, fun w => ?_⟩
  · obtain ⟨-, rfl⟩ := encodeOfDecode w i hi
    obtain ⟨hmatch, hmem⟩ := encode_mem_row i
    exact ⟨_, hmem, hmatch⟩
  · refine length_filter_le_one (opcodeRows_apart.imp fun hab => ?_)
    simpa only [decide_eq_true_eq] using not_both_rows hab

/-- Settles O5: by running the decoder on each word. -/
theorem workedEncodingsDecode : Obligations.WorkedEncodingsDecode := by
  refine ⟨?formats, ?pixels, ?setters, ?illegal⟩ <;> decide

end Sys2Proof.Proofs

/-! PROOFS. The steps of the block (20_memory.md R46 to R48): whose turn it is, what HOST does at the port, and that
every command has a meaning. -/

namespace Sys2Proof.Machine

/-! ### The agent whose turn it is -/

section Turns

variable {s : State}

theorem step_host (h : s.nextTurn = .host) : step s = s.takeTurn.hostStep := by rw [step, h]; rfl

theorem step_sched (h : s.nextTurn = .sched) : step s = s.takeTurn.schedStep := by rw [step, h]; rfl

theorem step_txeng (h : s.nextTurn = .txeng) : step s = s.takeTurn.txStep := by rw [step, h]; rfl

theorem step_reset (h : s.nextTurn = .reset) : step s = .next s.takeTurn.resetEvent := by rw [step, h]; rfl

theorem hostStep_inProgress (ho : s.hostOp ≠ .ready) : s.hostStep = s.hostByteStep := by
  unfold State.hostStep
  cases h : s.hostOp
  case ready => exact absurd h ho
  all_goals rfl

theorem hostStep_wait (ho : s.hostOp = .ready) (hp : s.port = []) : s.hostStep = .next s := by
  simp only [State.hostStep, ho, hp]

theorem hostStep_word {w : Word} {rest : List Word} (ho : s.hostOp = .ready) (hp : s.port = w :: rest) :
    s.hostStep = ({ s with port := rest } : State).runWord w := by
  simp only [State.hostStep, ho, hp]

theorem runWord_decoded {w : Word} {i : Instr} (h : decode w = .ok i) : s.runWord w = exec i s := by
  simp only [State.runWord, h]

theorem runWord_illegal {w : Word} (h : ∀ i, decode w ≠ .ok i) : s.runWord w = .next (s.refuse .illegal) := by
  unfold State.runWord
  split
  next i hi => exact absurd hi (h i)
  next => rfl

/-- A timer expiry outside ARMED, or with the arming already taken, is no TICK (43_scheduler.md R163). -/
theorem schedStep_ignored (h : s.life.isArmed = false ∨ s.tarmed = false) : s.schedStep = .next s := by
  unfold State.schedStep
  split
  next pos hl =>
    have hn : s.tarmed = false := h.resolve_left (by simp [hl, Life.isArmed])
    simp [hn]
  next => rfl
  next => rfl

theorem schedStep_tick {pos : RefreshPos} (hl : s.life = .armed pos) (ht : s.tarmed = true) (hb : s.tx.busy = false) :
    s.schedStep = .next (s.tick pos) := by
  simp [State.schedStep, hl, ht, hb]

theorem schedStep_violation {pos : RefreshPos} (hl : s.life = .armed pos) (ht : s.tarmed = true)
    (hb : s.tx.busy = true) : s.schedStep = .fault .timingViolation := by
  simp [State.schedStep, hl, ht, hb]

theorem txStep_idle (hb : s.tx.busy = false) : s.txStep = .next s := by simp [State.txStep, hb]

theorem txStep_byte (hb : s.tx.busy = true) (hlt : s.tx.pos.toNat < s.tx.len.toNat)
    (hin : s.tx.addr.toNat + s.tx.pos.toNat < s.fb.size) :
    s.txStep = .next (({ s with tx := { s.tx with pos := BitVec.ofNat 32 (s.tx.pos.toNat + 1) } } : State).emit
      (.txByte (s.fb.byteAt (s.tx.addr.toNat + s.tx.pos.toNat)))) := by
  have hr : s.fb.read (s.tx.addr.toNat + s.tx.pos.toNat : Nat) =
      some (s.fb.byteAt (s.tx.addr.toNat + s.tx.pos.toNat)) :=
    Memory.read_eq_some (by omega) (by omega)
  simp only [State.txStep, hb, hlt, hr, Bool.not_true, Bool.false_eq_true, if_false, if_true]

theorem txStep_done (hb : s.tx.busy = true) (hp : s.tx.pos = s.tx.len) :
    s.txStep = .next (({ s with tx := { s.tx with busy := false } } : State).emit .txDone) := by
  simp [State.txStep, hb, hp]

end Turns

/-! ### Every command has a meaning -/

theorem State.setReg_total (isOpen : Bool) (c : Option ConfigRegs) (s : State) :
    ∃ t, s.setReg isOpen c = .next t := by
  cases isOpen
  case false => exact ⟨_, rfl⟩
  case true => cases c <;> exact ⟨_, rfl⟩

theorem State.setTiming_total (legal : Bool) (fps : BitVec 16) (bushz : BitVec 32) (s : State) :
    ∃ t, s.setTiming legal fps bushz = .next t := by
  cases legal
  case false => exact ⟨_, State.setTiming_illegal⟩
  case true =>
    by_cases hl : s.life = .uninit
    · exact ⟨_, State.setTiming_uninit hl⟩
    · cases ht : s.ticksWith fps.toNat bushz.toNat
      · exact ⟨_, State.setTiming_overflow hl ht⟩
      · exact ⟨_, State.setTiming_ticks hl ht⟩

section PixelStarts

variable {s : State} {x y : Int}

theorem startPixel_uninit (hl : s.life = .uninit) (ch : Channels) :
    s.startPixel x y ch = .next (s.refuse .notinit) := by
  simp only [State.startPixel, hl, Life.isUninit, if_true]

theorem startPixel_precond (hl : s.life ≠ .uninit) (h : s.translate x y = .precond) (ch : Channels) :
    s.startPixel x y ch = .next (s.refuse .precond) := by
  simp [State.startPixel, Life.isUninit_eq_decide, hl, h]

theorem State.translate_precond (h : s.precondOk = false) (x y : Int) : s.translate x y = .precond := by
  simp only [State.translate, h, Bool.false_eq_true, if_false]

theorem startPixel_drop (hl : s.life ≠ .uninit) (h : s.translate x y = .drop) (ch : Channels) :
    s.startPixel x y ch = .next s := by
  simp [State.startPixel, Life.isUninit_eq_decide, hl, h]

theorem startPixel_total (ch : Channels) : ∃ t, s.startPixel x y ch = .next t := by
  by_cases hl : s.life = .uninit
  · exact ⟨_, startPixel_uninit hl ch⟩
  · cases h : s.translate x y
    case drop => exact ⟨_, startPixel_drop hl h ch⟩
    case precond => exact ⟨_, startPixel_precond hl h ch⟩
    case place redOff bit =>
      by_cases hd : 1 ≤ s.cfg.colordepth.toNat
      · exact ⟨_, startPixel_place hl hd h ch⟩
      · exact ⟨s, by simp [State.startPixel, Life.isUninit_eq_decide, hl, h]; omega⟩

end PixelStarts

/-! ### INIT (40_config.md R81) -/

section Init

variable {s : State}

theorem exec_init_badstate (hl : s.life ≠ .uninit) : exec .init s = .next (s.refuse .badstate) := by
  simp [exec, execInit, Life.isUninit_eq_decide, hl]

theorem exec_init_badgeom (hl : s.life = .uninit) (hg : geometryOk s.cfg = false) :
    exec .init s = .next (s.refuse .badgeom) := by
  simp [exec, execInit, Life.isUninit_eq_decide, hl, hg]

theorem exec_init_nomem (hl : s.life = .uninit) (hg : geometryOk s.cfg = true) (hf : s.fitsMemory = false) :
    exec .init s = .next (s.refuse .nomem) := by
  simp [exec, execInit, Life.isUninit_eq_decide, hl, hg, hf]

theorem exec_init_overflow (hl : s.life = .uninit) (hg : geometryOk s.cfg = true) (hf : s.fitsMemory = true)
    (ht : s.initTicks = none) : exec .init s = .next (s.refuse .badgeom) := by
  simp [exec, execInit, Life.isUninit_eq_decide, hl, hg, hf, ht]

theorem exec_init_accepted (hl : s.life = .uninit) (hg : geometryOk s.cfg = true) (hf : s.fitsMemory = true)
    {t : Nat} (ht : s.initTicks = some t) : exec .init s = .next (s.initialised (deriveSizes s.cfg) t) := by
  simp [exec, execInit, Life.isUninit_eq_decide, hl, hg, hf, ht]

theorem fitsMemory_iff : s.fitsMemory = true ↔
    (deriveSizes s.cfg).nbuf * (deriveSizes s.cfg).fbsize ≤ min s.params.fbCapacity (2 ^ 32) :=
  decide_eq_true_iff

theorem exec_init_total : ∃ t, exec .init s = .next t := by
  by_cases hl : s.life = .uninit
  case neg => exact ⟨_, exec_init_badstate hl⟩
  cases hg : geometryOk s.cfg
  case false => exact ⟨_, exec_init_badgeom hl hg⟩
  cases hf : s.fitsMemory
  case false => exact ⟨_, exec_init_nomem hl hg hf⟩
  cases ht : s.initTicks
  case none => exact ⟨_, exec_init_overflow hl hg hf ht⟩
  case some => exact ⟨_, exec_init_accepted hl hg hf ht⟩

end Init

theorem exec_enable_total (s : State) : ∃ t, exec .enable s = .next t := by
  cases hl : s.life
  case uninit => exact ⟨_, exec_enable_uninit hl⟩
  case idle => exact ⟨_, exec_enable_idle hl⟩
  case armed => exact ⟨_, exec_enable_armed hl⟩

theorem exec_disable_total (s : State) : ∃ t, exec .disable s = .next t := by
  by_cases hl : s.life = .uninit
  · exact ⟨_, exec_disable_uninit hl⟩
  · exact ⟨_, exec_disable_ready hl⟩

theorem exec_swap_total (s : State) : ∃ t, exec .swap s = .next t := by
  cases hd : s.cfg.dbuf <;> cases hl : s.life
  case false.uninit => exact ⟨_, exec_swap_uninit hl⟩
  case true.uninit => exact ⟨_, exec_swap_uninit hl⟩
  case true.idle => exact ⟨_, exec_swap_idle hl hd⟩
  case true.armed => exact ⟨_, exec_swap_armed hl hd⟩
  all_goals exact ⟨_, exec_swap_oneBuffer (by simp [hl]) hd⟩

theorem exec_clear_total (sel : BufferRole) (s : State) : ∃ t, exec (.clear sel) s = .next t := by
  by_cases hl : s.life = .uninit
  · exact ⟨_, exec_clear_uninit hl sel⟩
  · by_cases hpos : 0 < s.der.fbsize.toNat
    · exact ⟨_, exec_clear_start hl hpos sel⟩
    · exact ⟨s, by simp [exec, execClear, Life.isUninit_eq_decide, hl, hpos]⟩

theorem exec_copy_total (dir : CopyDir) (s : State) : ∃ t, exec (.copy dir) s = .next t := by
  by_cases hl : s.life = .uninit
  · exact ⟨_, exec_copy_uninit hl dir⟩
  cases hd : s.cfg.dbuf
  case false => exact ⟨_, exec_copy_oneBuffer hl hd dir⟩
  by_cases hpos : 0 < s.der.fbsize.toNat
  · exact ⟨_, exec_copy_start hl hd hpos dir⟩
  · exact ⟨s, by simp [exec, execCopy, Life.isUninit_eq_decide, hl, hd, hpos]⟩

/-- Every command answers a next state, in every state: a refusal is one too (60_exceptions.md R190). -/
theorem exec_total (i : Instr) (s : State) : ∃ t, exec i s = .next t := by
  cases i
  case init => exact exec_init_total
  case enable => exact exec_enable_total s
  case disable => exact exec_disable_total s
  case swap => exact exec_swap_total s
  case clear sel => exact exec_clear_total sel s
  case copy dir => exact exec_copy_total dir s
  case setpixel => exact startPixel_total _
  case setpixel565 => exact startPixel_total _
  case getpixel => exact ⟨_, rfl⟩
  case setfps v => exact State.setTiming_total _ _ _ s
  case setbushz v => exact State.setTiming_total _ _ _ s
  case setcolordepth v => exact State.setReg_total _ (some _) s
  case setbrightness v => exact State.setReg_total true _ s
  all_goals exact State.setReg_total _ _ s

/-- HOST takes any word to a next state. -/
theorem runWord_total (w : Word) (s : State) : ∃ t, s.runWord w = .next t := by
  unfold State.runWord
  split
  next i _ => exact exec_total i s
  next => exact ⟨_, rfl⟩

/-! ### No step is refused -/

theorem State.byteStep_ne_refused (src dst : Int) (f : Byte → Byte) (op : HostOp) (s : State) (r : Refusal) :
    s.byteStep src dst f op ≠ .refused r := by
  unfold State.byteStep
  split
  · nofun
  · split <;> nofun

theorem hostByteStep_ne_refused (s : State) (r : Refusal) : s.hostByteStep ≠ .refused r := by
  unfold State.hostByteStep
  split
  case h_1 => nofun
  all_goals exact State.byteStep_ne_refused _ _ _ _ s r

theorem hostStep_ne_refused (s : State) (r : Refusal) : s.hostStep ≠ .refused r := by
  by_cases ho : s.hostOp = .ready
  case neg =>
    rw [hostStep_inProgress ho]
    exact hostByteStep_ne_refused s r
  cases hp : s.port
  case nil => rw [hostStep_wait ho hp]; nofun
  case cons w rest =>
    rw [hostStep_word ho hp]
    obtain ⟨t, ht⟩ := runWord_total w { s with port := rest }
    rw [ht]
    nofun

theorem schedStep_ne_refused (s : State) (r : Refusal) : s.schedStep ≠ .refused r := by
  unfold State.schedStep
  split
  case h_1 => split <;> [split <;> nofun; nofun]
  all_goals nofun

theorem txStep_ne_refused (s : State) (r : Refusal) : s.txStep ≠ .refused r := by
  unfold State.txStep
  split
  case isTrue => nofun
  split
  case isTrue => split <;> nofun
  split <;> nofun

end Sys2Proof.Machine

namespace Sys2Proof.Proofs

open Sys2Proof.Machine

/-- Settles O8: every command answers a next state, and the steps of the agents name no refusal. -/
theorem noStepIsRefused : Obligations.NoStepIsRefused := by
  intro s r
  cases h : s.nextTurn
  case host => rw [step_host h]; exact hostStep_ne_refused _ r
  case sched => rw [step_sched h]; exact schedStep_ne_refused _ r
  case txeng => rw [step_txeng h]; exact txStep_ne_refused _ r
  case reset => rw [step_reset h]; nofun

/-- Settles O4: by O3 no command is decoded, so HOST refuses the word it has taken. -/
theorem illegalWordRefused : Obligations.IllegalWordRefused := by
  intro s w rest hturn ho hp hrow
  have hillegal : ∀ i, decode w ≠ .ok i := fun i hi =>
    let ⟨row, hmem, hmatch⟩ := (decoderAcceptsTheTable.1 w).1 ⟨i, hi⟩
    hrow row hmem hmatch
  rw [step_host hturn, hostStep_word (s := s.takeTurn) ho hp, runWord_illegal hillegal]
  rfl

/-- Settles O6: the turn and the word are taken off their lists, and the command runs. -/
theorem stepRunsDecodedCommand : Obligations.StepRunsDecodedCommand := by
  intro s w rest i hturn ho hp hi
  rw [step_host hturn, hostStep_word (s := s.takeTurn) ho hp, runWord_decoded hi]
  rfl

/-- Settles O7: by the agent whose turn it is; in a run that is over HOST waits, TXENG is idle and no TICK is due. -/
theorem stepTakesTheTurn : Obligations.StepTakesTheTurn := by
  intro s
  refine ⟨fun hturn ho => ?byteStep, fun hturn ho hp => ?wait, step_sched, step_txeng, step_reset,
    fun ticks hover hturn => ?ended, fun hover hturn => ?endedSched⟩
  case byteStep => rw [step_host hturn, hostStep_inProgress (s := s.takeTurn) ho]
  case wait => rw [step_host hturn, hostStep_wait (s := s.takeTurn) ho hp]
  case ended =>
    obtain ⟨hp, ho, hb, -⟩ := over_cases hover
    rcases hturn with hturn | hturn
    · rw [step_host hturn, hostStep_wait (s := s.takeTurn) ho hp]
    · rw [step_txeng hturn, txStep_idle (s := s.takeTurn) hb]
  case endedSched =>
    obtain ⟨-, -, -, hl | ⟨n, hn, -⟩⟩ := over_cases hover
    · rw [step_sched hturn, schedStep_ignored (s := s.takeTurn) (.inl hl)]
    · cases hn

/-- Settles O43: SCHED looks at STATE first, then at TARMED. -/
theorem tickIgnoredWhenNotArmed : Obligations.TickIgnoredWhenNotArmed := fun _ h => schedStep_ignored h

/-- Settles O44: taking the turn changes neither STATE, nor TARMED, nor TXBUSY. -/
theorem busyTickIsViolation : Obligations.BusyTickIsViolation := by
  intro s pos hturn hl ht hb
  rw [step_sched hturn, schedStep_violation (s := s.takeTurn) hl ht hb]

/-- Settles O16: the checks of INIT in their order. -/
theorem initRefusals : Obligations.InitRefusals := by
  refine fun s => ⟨exec_init_badstate, exec_init_badgeom, fun hl hg hcap => ?nomem, fun hl hg hcap => ?overflow⟩
  case nomem =>
    exact exec_init_nomem hl hg (Bool.eq_false_iff.2 fun hf => absurd (fitsMemory_iff.1 hf) (Nat.not_le.2 hcap))
  case overflow => exact exec_init_overflow hl hg (fitsMemory_iff.2 hcap)

/-- Settles O15: every check passes, and the sizes named are those INIT derives. -/
theorem initDerivesAndAllocates : Obligations.InitDerivesAndAllocates := by
  intro s rp pcb bufsize nbuf t hl hrp hm hw hw8 hh hhrp hb hpcb hbuf hnbuf hcap haddr ht
  subst hrp hpcb hbuf hnbuf
  have hg : geometryOk s.cfg = true := (geometryOk_iff s.cfg).2 ⟨hm, hw, hw8, hh, hhrp, hb⟩
  have hf : s.fitsMemory = true := fitsMemory_iff.2 (Nat.le_min.2 ⟨hcap, haddr⟩)
  rw [exec_init_accepted hl hg hf (t := t) ht]
  rfl

/-- Settles O29: a pixel write checks STATE, then the preconditions, then the panel. -/
theorem pixelWriteRefusals : Obligations.PixelWriteRefusals := by
  intro s x y r g b c
  refine ⟨fun hl => ⟨startPixel_uninit hl _, startPixel_uninit hl _⟩, fun hl hpre => ?precond,
    fun hl hdrop => ⟨startPixel_drop hl hdrop _, startPixel_drop hl hdrop _⟩⟩
  have htr := State.translate_precond hpre x y
  exact ⟨startPixel_precond hl htr _, startPixel_precond hl htr _⟩

/-- Settles O24: a 5-bit channel is at most 31 and a 6-bit one at most 63. -/
theorem expand565Examples : Obligations.Expand565Examples := by
  refine ⟨fun c _ => ?_, by decide, by decide, by decide, by decide, by decide, by decide, by decide⟩
  simp only [expand565]
  omega

/-- Settles O48: the memory after reset has no byte; every other value is written out in `State.reset`. -/
theorem resetValues : Obligations.ResetValues := by
  have hempty (a : Int) : State.reset.fb.read a = none :=
    Option.not_isSome_iff_eq_none.1 fun h => by
      obtain ⟨h0, h1⟩ := (Memory.read_isSome _ a).1 h
      exact absurd (Int.lt_of_le_of_lt h0 h1) (by decide)
  exact ⟨rfl, rfl, rfl, rfl, rfl, rfl, hempty, rfl, rfl, rfl, rfl⟩

/-- Settles O49: the reset event keeps the parameters, the inputs and the counters, and nothing else. -/
theorem resetEventResets : Obligations.ResetEventResets := fun _ hturn => step_reset hturn

end Sys2Proof.Proofs

/-! PROOFS. The status wires and the serial wire (10_state.md R25, 20_memory.md R44), and the base tick count
(40_config.md R85). -/

namespace Sys2Proof.Machine

/-- The bits of bytes sent one after the other, and what follows them. -/
theorem serialBits_txBytes (vs : List Byte) (es : List TraceEvent) :
    serialBits (vs.map TraceEvent.txByte ++ es) = vs.flatMap wireBits ++ serialBits es := by
  induction vs with
  | nil => rfl
  | cons v vs ih => simp only [List.map_cons, List.cons_append, serialBits, ih, List.flatMap_cons, List.append_assoc]

/-- Rounding a quotient up gives the least number whose multiple is large enough (R85). -/
theorem div_round_up_eq {a b n : Nat} (hb : 0 < b) (hn : a ≤ n * b) (hleast : ∀ m, a ≤ m * b → n ≤ m) :
    (a + b - 1) / b = n := by
  have hround (m : Nat) : (a + b - 1) / b ≤ m ↔ a ≤ m * b := by
    rw [Nat.div_le_iff_le_mul_add_pred hb, Nat.mul_comm m]
    omega
  exact Nat.le_antisymm ((hround n).2 hn) (hleast _ ((hround _).1 (Nat.le_refl _)))

/-- `baseticks()` with its floor given as a number (R85). -/
theorem baseticks_eq {tickHz fps rp cd sbs bushz floor : Nat} (h : (sbs * 8 * tickHz + bushz - 1) / bushz = floor) :
    baseticks tickHz fps rp cd sbs bushz =
      if 2 ^ 32 ≤ max (max (tickHz / (max fps 1 * rp * (2 ^ cd - 1))) floor) 1 * 2 ^ (cd - 1) then none
      else some (max (max (tickHz / (max fps 1 * rp * (2 ^ cd - 1))) floor) 1) := by
  subst h
  rfl

/-- What `baseticks()` answers: a count at or above the floor and 1 that fits the timer in the highest bit-plane. -/
theorem baseticks_some {tickHz fps rp cd sbs bushz t : Nat} (h : baseticks tickHz fps rp cd sbs bushz = some t) :
    (sbs * 8 * tickHz + bushz - 1) / bushz ≤ t ∧ 1 ≤ t ∧ t * 2 ^ (cd - 1) < 2 ^ 32 := by
  rw [baseticks_eq rfl] at h
  split at h
  next => cases h
  next hfit =>
    obtain rfl := Option.some.inj h
    exact ⟨(Nat.le_max_right _ _).trans (Nat.le_max_left _ _), Nat.le_max_right _ _, Nat.lt_of_not_le hfit⟩

end Sys2Proof.Machine

namespace Sys2Proof.Proofs

open Sys2Proof.Machine

/-- Settles O60: each wire is a view of its register, and a byte's bits leave from bit 7 down. -/
theorem wiresShowTheRegisters : Obligations.WiresShowTheRegisters := by
  refine ⟨fun s => ⟨?uninit, ?idle, ?armed, ?refused, ?txbusy, ?sel, ?errcode⟩, fun v => rfl, fun vs => ?serial⟩
  case uninit => intro hl; simp only [State.wires, hl, Life.code]; rfl
  case idle => intro hl; simp only [State.wires, hl, Life.code]; rfl
  case armed => intro pos hl; simp only [State.wires, hl, Life.code]; rfl
  case refused => rw [State.wires]; cases s.refused <;> rfl
  case txbusy => rw [State.wires]; cases s.tx.busy <;> rfl
  case sel => rw [State.wires]; cases s.sel <;> rfl
  case errcode => rw [State.wires]; cases s.errcode <;> rfl
  case serial =>
    rw [serialBits_txBytes]
    exact List.append_nil _

/-- Settles O19: the rounded-up quotient is the least sufficient count; a lower bit-plane multiplies the count by
less. -/
theorem baseticksKeepsTheFloor : Obligations.BaseticksKeepsTheFloor := by
  refine ⟨?value, ?bounds, by decide, by decide⟩
  case value =>
    intro tickHz fps rp cd sbs bushz ideal floor hb hideal hfloor hleast
    rw [hideal, baseticks_eq (div_round_up_eq hb hfloor hleast)]
  case bounds =>
    intro tickHz fps rp cd sbs bushz t p hb ht hp
    obtain ⟨hfloor, hone, hfit⟩ := baseticks_some ht
    have hplane : t * 2 ^ p ≤ t * 2 ^ (cd - 1) :=
      Nat.mul_le_mul_left t (Nat.pow_le_pow_right Nat.two_pos (by omega))
    rw [Nat.div_le_iff_le_mul_add_pred hb, Nat.mul_comm bushz] at hfloor
    exact ⟨by omega, hone, by omega⟩

end Sys2Proof.Proofs

/-! PROOFS. The address translator (41_translator.md): the block swap of step 2, where a pixel is placed, and the three
properties of R135. -/

namespace Sys2Proof.Machine

/-! ### Step 2, the block swap (R112) -/

theorem ediv_add_block {d : Int} (hd : 0 < d) (a : Int) : (a + d) / d = a / d + 1 := by
  rw [Int.add_ediv_of_dvd_right (Int.dvd_refl d), Int.ediv_self (Int.ne_of_gt hd)]

theorem ediv_sub_block {d : Int} (hd : 0 < d) (a : Int) : (a - d) / d = a / d - 1 := by
  rw [Int.sub_ediv_of_dvd _ (Int.dvd_refl d), Int.ediv_self (Int.ne_of_gt hd)]

/-- The tile of a column or row is its block halved. -/
theorem ediv_tile {d : Int} (hd : 0 < d) (a : Int) : a / (2 * d) = a / d / 2 := by
  rw [Int.mul_comm, Int.ediv_ediv_of_nonneg hd.le]

theorem swapBlocks_involution (diag : DbcaDiag) {dx dy : Int} (hx : 0 < dx) (hy : 0 < dy) (p : Int × Int) :
    swapBlocks diag dx dy (swapBlocks diag dx dy p) = p := by
  have hxp := ediv_add_block hx p.1
  have hxm := ediv_sub_block hx p.1
  have hyp := ediv_add_block hy p.2
  have hym := ediv_sub_block hy p.2
  have next (a : Int) (h : a % 2 = 0) : (a + 1) % 2 = 1 ∧ (a - 1) % 2 = 1 := by omega
  have prev (a : Int) (h : a % 2 = 1) : (a + 1) % 2 = 0 ∧ (a - 1) % 2 = 0 := by omega
  rcases Int.emod_two_eq_zero_or_one (p.1 / dx) with h1 | h1 <;>
    rcases Int.emod_two_eq_zero_or_one (p.2 / dy) with h2 | h2 <;>
    cases diag <;> simp [swapBlocks, h1, h2, hxp, hxm, hyp, hym, next, prev]

/-- A swap moves a coordinate between the two halves of its tile. -/
theorem swapBlocks_tile (diag : DbcaDiag) {dx dy : Int} (hx : 0 < dx) (hy : 0 < dy) (p : Int × Int) :
    (swapBlocks diag dx dy p).1 / (2 * dx) = p.1 / (2 * dx) ∧
      (swapBlocks diag dx dy p).2 / (2 * dy) = p.2 / (2 * dy) := by
  simp only [ediv_tile hx, ediv_tile hy]
  unfold swapBlocks
  cases diag
  all_goals
    simp only
    split
    · simp only [ediv_add_block, ediv_sub_block, hx, hy]; omega
    · split
      · simp only [ediv_add_block, ediv_sub_block, hx, hy]; omega
      · exact ⟨rfl, rfl⟩

end Sys2Proof.Machine

namespace Sys2Proof.Proofs

open Sys2Proof.Machine

/-- Settles O22: by the parities of the block column and the block row. -/
theorem blockSwapIsInvolution : Obligations.BlockSwapIsInvolution := fun d _ _ p hx hy =>
  ⟨swapBlocks_involution d hx hy p, swapBlocks_tile d hx hy p⟩

end Sys2Proof.Proofs

namespace Sys2Proof.Machine

/-! ### A state that can place pixels -/

/-- The block is initialised and the preconditions of a pixel write hold (R134, R183). -/
structure State.CanPlace (s : State) : Prop where
  inv : s.Inv
  ready : s.life ≠ .uninit
  precond : s.precondOk = true

theorem State.TranslatorReady.canPlace {s : State} (h : s.TranslatorReady) : s.CanPlace := ⟨h.inv, h.ready, h.precond⟩

section CanPlace

variable {s : State}

theorem State.CanPlace.sizes (h : s.CanPlace) : s.SizesExact := h.inv.sizesExact h.ready

theorem State.CanPlace.blockPatternOk (h : s.CanPlace) : s.blockPatternOk = true :=
  (Bool.and_eq_true_iff.1 h.precond).1

theorem State.CanPlace.scanPatternOk (h : s.CanPlace) : s.scanPatternOk = true :=
  (Bool.and_eq_true_iff.1 h.precond).2

theorem State.SizesExact.rowpattern_pos (h : s.SizesExact) : 0 < s.der.rowpattern.toNat :=
  h.rowpattern ▸ Nat.two_pow_pos _

theorem State.SizesExact.w8_pos (h : s.SizesExact) : 0 < s.der.w8.toNat :=
  Nat.pos_of_mul_pos_left (h.pcb ▸ h.pcb_pos)

theorem State.SizesExact.nrows_pos (h : s.SizesExact) : 0 < s.der.nrows.toNat :=
  Nat.pos_of_mul_pos_right (h.pcb ▸ h.pcb_pos)

theorem State.SizesExact.width_pos (h : s.SizesExact) : 0 < s.cfg.width.toNat := by
  have := h.w8_pos
  have := h.w8
  omega

theorem State.SizesExact.height_pos (h : s.SizesExact) : 0 < s.cfg.height.toNat :=
  h.nrows ▸ Nat.mul_pos h.rowpattern_pos h.nrows_pos

/-! ### Steps 2 to 5: the panel coordinate -/

theorem State.CanPlace.blocks_dvd (h : s.CanPlace) (hb : s.cfg.blockpattern = .dbca) :
    s.cfg.width.toNat % (2 * s.cfg.panels.toNat) = 0 ∧ s.cfg.height.toNat % 4 = 0 := by
  have hok := h.blockPatternOk
  simp only [State.blockPatternOk, hb] at hok
  exact of_decide_eq_true hok

/-- DBCA cuts the panel into whole tiles of 2x2 blocks of this size (R112, R134). -/
structure State.DbcaTiles (s : State) (dx dy : Nat) : Prop where
  columns : 0 < dx
  rows : 0 < dy
  width : s.cfg.width.toNat = s.cfg.panels.toNat * (2 * dx)
  height : s.cfg.height.toNat = 2 * (2 * dy)
  step : s.stepBlock = swapBlocks s.params.dbcaDiag dx dy

theorem State.CanPlace.dbcaTiles (h : s.CanPlace) (hb : s.cfg.blockpattern = .dbca) :
    ∃ dx dy, s.DbcaTiles dx dy := by
  obtain ⟨hwmod, hhmod⟩ := h.blocks_dvd hb
  have hw := h.sizes.width_pos
  have hh := h.sizes.height_pos
  obtain ⟨dx, hdx⟩ := Nat.dvd_of_mod_eq_zero hwmod
  have hp : 0 < 2 * s.cfg.panels.toNat := Nat.pos_of_mul_pos_right (hdx ▸ hw)
  have hdxpos : 0 < dx := Nat.pos_of_mul_pos_left (hdx ▸ hw)
  refine ⟨dx, s.cfg.height.toNat / 4, hdxpos, by omega, by rw [hdx]; ring, by omega, funext fun p => ?_⟩
  simp only [State.stepBlock, hb]
  rw [hdx, Nat.mul_div_cancel_left _ hp]

theorem stepBlock_abcd (hb : s.cfg.blockpattern = .abcd) (p : Int × Int) : s.stepBlock p = p := by
  simp only [State.stepBlock, hb]

theorem State.CanPlace.stepBlock_involution (h : s.CanPlace) (p : Int × Int) : s.stepBlock (s.stepBlock p) = p := by
  cases hb : s.cfg.blockpattern
  case abcd => simp only [stepBlock_abcd hb]
  case dbca =>
    obtain ⟨dx, dy, ht⟩ := h.dbcaTiles hb
    rw [ht.step]
    exact swapBlocks_involution _ (Int.natCast_pos.2 ht.columns) (Int.natCast_pos.2 ht.rows) p

theorem inPanel_iff (p : Int × Int) : s.inPanel p = true ↔
    0 ≤ p.1 ∧ p.1 < (s.cfg.width.toNat : Int) ∧ 0 ≤ p.2 ∧ p.2 < (s.cfg.height.toNat : Int) := decide_eq_true_iff

/-- A coordinate is inside `n` by `m` tiles exactly where its tile is. -/
theorem tiles_range {a b d e n m : Int} (hd : 0 < d) (he : 0 < e) : (0 ≤ a ∧ a < n * d ∧ 0 ≤ b ∧ b < m * e) ↔
    (0 ≤ a / d ∧ a / d < n ∧ 0 ≤ b / e ∧ b / e < m) := by
  rw [Int.le_ediv_iff_mul_le hd, Int.le_ediv_iff_mul_le he, Int.zero_mul, Int.zero_mul, Int.ediv_lt_iff_lt_mul hd,
    Int.ediv_lt_iff_lt_mul he]

/-- The block swap keeps the panel, a panel being made of whole tiles. -/
theorem State.CanPlace.inPanel_stepBlock (h : s.CanPlace) (p : Int × Int) :
    s.inPanel (s.stepBlock p) = true ↔ s.inPanel p = true := by
  cases hb : s.cfg.blockpattern
  case abcd => rw [stepBlock_abcd hb]
  case dbca =>
    obtain ⟨dx, dy, ht⟩ := h.dbcaTiles hb
    have hdx := Int.natCast_pos.2 ht.columns
    have hdy := Int.natCast_pos.2 ht.rows
    obtain ⟨htx, hty⟩ := swapBlocks_tile s.params.dbcaDiag hdx hdy p
    rw [ht.step, inPanel_iff, inPanel_iff, ht.width, ht.height]
    push_cast
    rw [tiles_range (by omega) (by omega), tiles_range (by omega) (by omega), htx, hty]

theorem inPanel_stepFlip (p : Int × Int) : s.inPanel (s.stepFlip p) = true ↔ s.inPanel p = true := by
  rw [inPanel_iff, inPanel_iff, State.stepFlip]
  split
  · rfl
  · simp only
    omega

theorem inPanel_stepRotate (p : Int × Int) : s.inPanel (s.stepRotate p) = true ↔ s.inLogicalPanel p.1 p.2 := by
  rw [inPanel_iff, State.stepRotate, State.inLogicalPanel]
  split
  · simp only
    omega
  · rfl

/-- The block swap keeps the logical panel: with rotation the panel is square (R135). -/
theorem State.TranslatorReady.inLogicalPanel_stepBlock (h : s.TranslatorReady) (p : Int × Int) :
    s.inLogicalPanel (s.stepBlock p).1 (s.stepBlock p).2 ↔ s.inLogicalPanel p.1 p.2 := by
  cases hb : s.cfg.blockpattern
  case abcd => rw [stepBlock_abcd hb]
  case dbca =>
    have hsquare (hr : s.cfg.rotate = true) : s.cfg.width = s.cfg.height := h.square hr hb
    have hlogical (q : Int × Int) : s.inLogicalPanel q.1 q.2 ↔ s.inPanel q = true := by
      rw [inPanel_iff, State.inLogicalPanel]
      split
      next hr => rw [hsquare hr]
      next => rfl
    rw [hlogical, hlogical, h.canPlace.inPanel_stepBlock]

theorem State.TranslatorReady.inPanel_panelCoord (h : s.TranslatorReady) (x y : Int) :
    s.inPanel (s.panelCoord (x, y)) = true ↔ s.inLogicalPanel x y := by
  rw [State.panelCoord, inPanel_stepFlip, inPanel_stepRotate, h.inLogicalPanel_stepBlock]

theorem stepFlip_involution (p : Int × Int) : s.stepFlip (s.stepFlip p) = p := by
  unfold State.stepFlip
  split
  · rfl
  · simp only [sub_sub_cancel]

theorem stepRotate_injective : Function.Injective s.stepRotate := by
  intro p q hpq
  unfold State.stepRotate at hpq
  split at hpq
  · obtain ⟨h1, h2⟩ := Prod.mk.inj hpq
    exact Prod.ext (by omega) h1
  · exact hpq

theorem stepRotate_surjective : Function.Surjective s.stepRotate := by
  intro q
  unfold State.stepRotate
  split
  · exact ⟨((s.cfg.height.toNat : Int) - 1 - q.2, q.1), Prod.ext rfl (by simp only; omega)⟩
  · exact ⟨q, rfl⟩

theorem State.CanPlace.panelCoord_bijective (h : s.CanPlace) : Function.Bijective s.panelCoord := by
  have hflip := (show Function.Involutive s.stepFlip from stepFlip_involution).bijective
  have hblock := (show Function.Involutive s.stepBlock from h.stepBlock_involution).bijective
  exact hflip.comp (Function.Bijective.comp ⟨stepRotate_injective, stepRotate_surjective⟩ hblock)

/-! ### Step 7: the block remap -/

/-- The block patterns need panels of whole blocks of 16 columns (R134); a block height divides HEIGHT (R122). -/
theorem State.CanPlace.tiled (h : s.CanPlace) {p : BlockScan} (hp : blockScanOf s.cfg.scanpattern = some p) :
    Tiled s.cfg.width.toNat s.cfg.height.toNat (s.cfg.width.toNat / s.cfg.panels.toNat)
      (blockHeight p s.cfg.width.toNat s.cfg.height.toNat s.der.rowpattern.toNat s.cfg.panels.toNat) := by
  have hunpaired : pairedPattern s.cfg.scanpattern = false := by
    revert hp
    cases s.cfg.scanpattern <;> simp [blockScanOf, pairedPattern]
  have hok := h.scanPatternOk
  simp only [State.scanPatternOk, hunpaired, hp, Bool.false_eq_true, if_false, decide_eq_true_eq] at hok
  obtain ⟨-, hmod, h16, -⟩ := hok
  have hwidth := Nat.div_add_mod s.cfg.width.toNat s.cfg.panels.toNat
  rw [hmod, Nat.add_zero] at hwidth
  have hpos : 0 < s.cfg.width.toNat / s.cfg.panels.toNat := Nat.pos_of_ne_zero fun h0 => by
    have := h.sizes.width_pos
    rw [h0] at hwidth
    omega
  refine ⟨hpos, h16, ⟨_, hwidth.symm⟩, ?_, ?_⟩
  all_goals
    unfold blockHeight
    simp only
    split
  · rename_i hraw; exact hraw.1
  · exact h.sizes.height_pos
  · rename_i hraw; exact ⟨_, (Nat.div_mul_cancel (Nat.dvd_of_mod_eq_zero hraw.2)).symm⟩
  · exact ⟨1, (Nat.one_mul _).symm⟩

theorem stepRemap_none (hp : blockScanOf s.cfg.scanpattern = none) (x y : Nat) : s.stepRemap x y = (x, y) := by
  simp only [State.stepRemap, hp]

theorem stepRemap_some {p : BlockScan} (hp : blockScanOf s.cfg.scanpattern = some p) (x y : Nat) :
    s.stepRemap x y =
      blockRemap p s.cfg.width.toNat s.cfg.height.toNat s.der.rowpattern.toNat s.cfg.panels.toNat x y := by
  simp only [State.stepRemap, hp]

/-- A pixel of the panel, as the coordinate pairs after step 5. -/
def State.isPixel (s : State) (q : Nat × Nat) : Prop := q.1 < s.cfg.width.toNat ∧ q.2 < s.cfg.height.toNat

theorem State.CanPlace.stepRemap_isPixel (h : s.CanPlace) {x y : Nat} (hxy : s.isPixel (x, y)) :
    s.isPixel (s.stepRemap x y) := by
  cases hp : blockScanOf s.cfg.scanpattern with
  | none => rwa [stepRemap_none hp]
  | some p => rw [stepRemap_some hp]; exact (blockRemap_bijective p (h.tiled hp)).1 x y hxy.1 hxy.2

theorem State.CanPlace.stepRemap_injective (h : s.CanPlace) {x y x' y' : Nat} (hxy : s.isPixel (x, y))
    (hxy' : s.isPixel (x', y')) (heq : s.stepRemap x y = s.stepRemap x' y') : x = x' ∧ y = y' := by
  cases hp : blockScanOf s.cfg.scanpattern with
  | none =>
    rw [stepRemap_none hp, stepRemap_none hp] at heq
    exact Prod.mk.inj heq
  | some p =>
    rw [stepRemap_some hp, stepRemap_some hp] at heq
    obtain ⟨-, hinj, -⟩ := blockRemap_bijective p (h.tiled hp)
    exact hinj x y x' y' hxy.1 hxy.2 hxy'.1 hxy'.2 heq

theorem State.CanPlace.stepRemap_surjective (h : s.CanPlace) {q : Nat × Nat} (hq : s.isPixel q) :
    ∃ x y, s.isPixel (x, y) ∧ s.stepRemap x y = q := by
  cases hp : blockScanOf s.cfg.scanpattern with
  | none => exact ⟨q.1, q.2, hq, stepRemap_none hp _ _⟩
  | some p =>
    obtain ⟨-, -, hsurj⟩ := blockRemap_bijective p (h.tiled hp)
    obtain ⟨x, y, hx, hy, hxy⟩ := hsurj q.1 q.2 hq.1 hq.2
    exact ⟨x, y, ⟨hx, hy⟩, by rw [stepRemap_some hp]; exact hxy⟩

/-- BLOCKREMAP keeps the panel of the chain and the column inside a block (R122). -/
theorem State.CanPlace.stepRemap_block (h : s.CanPlace) {p : BlockScan} (hp : blockScanOf s.cfg.scanpattern = some p)
    {x y : Nat} (hxy : s.isPixel (x, y)) :
    (s.stepRemap x y).1 % 16 = x % 16 ∧ (s.stepRemap x y).1 / (s.cfg.width.toNat / s.cfg.panels.toNat) =
      x / (s.cfg.width.toNat / s.cfg.panels.toNat) := by
  have ht := h.tiled hp
  obtain ⟨hc, hr, heq⟩ := blockRemap_eq p ht hxy.1 hxy.2
  rw [stepRemap_some hp, heq]
  have hP : x / (s.cfg.width.toNat / s.cfg.panels.toNat) <
      s.cfg.width.toNat / (s.cfg.width.toNat / s.cfg.panels.toNat) :=
    Nat.div_lt_div_of_lt_of_dvd (Dvd.intro_left _ ht.dvd.choose_spec.symm) hxy.1
  obtain ⟨-, -, hdiv, -, hmod, -, -⟩ := block_join ht hP (Fin.isLt _) (Nat.mod_lt _ (by decide)) hr
    (Nat.mod_lt y ht.hb0)
  have h16 := Nat.dvd_of_mod_eq_zero ht.p16
  exact ⟨(Nat.mod_mod_of_dvd _ h16).symm.trans (hmod.trans (Nat.mod_mod_of_dvd x h16)), hdiv⟩

end CanPlace

end Sys2Proof.Machine

namespace Sys2Proof.Machine

/-! ### Steps 8 to 11: byte and bit -/

/-- Where the pattern puts a coordinate inside the red sub-block of its scan group: bytes below the group's last byte,
and bit (R119 to R130). -/
def State.laneAt (s : State) (q : Nat × Nat) : Nat × Nat :=
  laneOf s.cfg.scanpattern s.der.w8.toNat (q.2 / s.der.rowpattern.toNat) (q.1 / 8) (q.1 % 8)

/-- The last byte of the scan group of a row (R87). -/
def State.groupEnd (s : State) (y : Nat) : Nat := y % s.der.rowpattern.toNat * s.der.sbs.toNat + s.der.sbs.toNat - 1

/-- The red offset of a coordinate after the block remap. -/
def State.redOffAt (s : State) (q : Nat × Nat) : Int := (s.groupEnd q.2 : Int) - (s.laneAt q).1

section CanPlace

variable {s : State}

theorem State.Inv.rowOff_eq_groupEnd (hi : s.Inv) (hl : s.life ≠ .uninit) {y : Nat} (hy : y < s.cfg.height.toNat) :
    (s.rowOff y).toNat = s.groupEnd y := Proofs.rowOffTable s hi hl y hy

theorem State.SizesExact.column_lt (h : s.SizesExact) {x : Nat} (hx : x < s.cfg.width.toNat) :
    x / 8 < s.der.w8.toNat := by
  have := h.w8
  omega

theorem State.SizesExact.row_lt (h : s.SizesExact) {y : Nat} (hy : y < s.cfg.height.toNat) :
    y / s.der.rowpattern.toNat < s.der.nrows.toNat :=
  Nat.div_lt_of_lt_mul (by rwa [h.nrows])

/-- The paired patterns share a byte between two rows of a scan group, so its rows are even in number (R124, R134). -/
theorem State.CanPlace.nrows_even (h : s.CanPlace) (hp : pairedPattern s.cfg.scanpattern = true) :
    s.der.nrows.toNat % 2 = 0 := by
  have hok := h.scanPatternOk
  simpa only [State.scanPatternOk, hp, if_true, decide_eq_true_eq] using hok

theorem State.CanPlace.lane_lt (h : s.CanPlace) {q : Nat × Nat} (hq : s.isPixel q) :
    (s.laneAt q).1 < s.der.pcb.toNat ∧ (s.laneAt q).2 < 8 := by
  rw [h.sizes.pcb]
  exact lane_range _ (h.sizes.column_lt hq.1) (h.sizes.row_lt hq.2) (Nat.mod_lt _ (by decide)) h.nrows_even

theorem State.CanPlace.placePixel_eq (h : s.CanPlace) {x y : Nat} (hxy : s.isPixel (x, y)) :
    s.placePixel x y = .place (s.redOffAt (s.stepRemap x y)) (s.laneAt (s.stepRemap x y)).2 := by
  have hq := h.stepRemap_isPixel hxy
  rw [State.placePixel, placed_eq s _ _ h.sizes.rowpattern_pos (h.sizes.column_lt hq.1),
    h.inv.rowOff_eq_groupEnd h.ready hq.2]
  rfl

theorem State.CanPlace.translate_drop (h : s.CanPlace) {x y : Int} (hp : ¬ s.inPanel (s.panelCoord (x, y)) = true) :
    s.translate x y = .drop := by
  simp only [State.translate, h.precond, if_true, hp, Bool.false_eq_true, if_false]

/-- `translate` of a coordinate that steps 2 to 4 take to a pixel of the panel. -/
theorem State.CanPlace.translate_place (h : s.CanPlace) {x y : Int} {u v : Nat} (huv : s.isPixel (u, v))
    (hc : s.panelCoord (x, y) = ((u : Int), (v : Int))) :
    s.translate x y = .place (s.redOffAt (s.stepRemap u v)) (s.laneAt (s.stepRemap u v)).2 := by
  have hin : s.inPanel ((u : Int), (v : Int)) = true :=
    (inPanel_iff _).2 ⟨by omega, Int.ofNat_lt.2 huv.1, by omega, Int.ofNat_lt.2 huv.2⟩
  simp only [State.translate, h.precond, if_true, hc, hin, Int.toNat_natCast]
  exact h.placePixel_eq huv

theorem pixel_of_inPanel {p : Int × Int} (hp : s.inPanel p = true) :
    s.isPixel (p.1.toNat, p.2.toNat) ∧ p = ((p.1.toNat : Int), (p.2.toNat : Int)) := by
  obtain ⟨h0, h1, h2, h3⟩ := (inPanel_iff p).1 hp
  refine ⟨⟨?_, ?_⟩, Prod.ext ?_ ?_⟩ <;> simp only <;> omega

/-- Everything `translate` can place: a pixel of the panel, at its byte and bit. -/
theorem State.translate_place_cases {x y redOff : Int} {bit : Nat} (hi : s.Inv) (hl : s.life ≠ .uninit)
    (h : s.translate x y = .place redOff bit) :
    s.CanPlace ∧ ∃ u v : Nat, s.isPixel (u, v) ∧ s.panelCoord (x, y) = ((u : Int), (v : Int)) ∧
      redOff = s.redOffAt (s.stepRemap u v) ∧ bit = (s.laneAt (s.stepRemap u v)).2 := by
  cases hpre : s.precondOk
  case false => rw [State.translate_precond hpre] at h; cases h
  have hcan : s.CanPlace := ⟨hi, hl, hpre⟩
  by_cases hp : s.inPanel (s.panelCoord (x, y)) = true
  case neg => rw [hcan.translate_drop hp] at h; cases h
  obtain ⟨hpix, hc⟩ := pixel_of_inPanel hp
  rw [hcan.translate_place hpix hc] at h
  obtain ⟨hr, hb⟩ := Translated.place.inj h
  exact ⟨hcan, _, _, hpix, hc, hr.symm, hb.symm⟩

/-! ### The bits of a bit-plane -/

/-- Byte `c * PCB` below the red offset, counted from the end of the scan group. -/
theorem channel_offset (h : s.SizesExact) {q : Nat × Nat} (hlane : (s.laneAt q).1 < s.der.pcb.toNat) {c : Nat}
    (hc : c < 3) :
    c * s.der.pcb.toNat + (s.laneAt q).1 < s.der.sbs.toNat ∧
      s.redOffAt q - (c : Int) * (s.der.pcb.toNat : Int) = (q.2 % s.der.rowpattern.toNat * s.der.sbs.toNat +
        (s.der.sbs.toNat - 1 - (c * s.der.pcb.toNat + (s.laneAt q).1)) : Nat) := by
  have hlt : c * s.der.pcb.toNat + (s.laneAt q).1 < s.der.sbs.toNat := h.sbs ▸ unit_lt hlane hc
  refine ⟨hlt, ?_⟩
  rw [State.redOffAt, State.groupEnd, ← Nat.cast_mul]
  omega

/-- Red, green and blue of a pixel lie inside one bit-plane, the red byte in the last PCB bytes of its scan group. -/
theorem State.CanPlace.redOff_range (h : s.CanPlace) {q : Nat × Nat} (hq : s.isPixel q) :
    2 * (s.der.pcb.toNat : Int) ≤ s.redOffAt q ∧ s.redOffAt q < (s.der.bufsize.toNat : Int) := by
  have hlane := (h.lane_lt hq).1
  have hend := scanGroup_end_le h.sizes.rowpattern_pos s.der.sbs.toNat q.2
  rw [← h.sizes.bufsize] at hend
  have hsbs := h.sizes.sbs
  rw [State.redOffAt, State.groupEnd]
  omega

theorem State.CanPlace.channel_injective (h : s.CanPlace) {q q' : Nat × Nat} (hq : s.isPixel q) (hq' : s.isPixel q')
    {c c' : Nat} (hc : c < 3) (hc' : c' < 3)
    (hoff : s.redOffAt q - (c : Int) * (s.der.pcb.toNat : Int) = s.redOffAt q' - (c' : Int) * (s.der.pcb.toNat : Int))
    (hbit : (s.laneAt q).2 = (s.laneAt q').2) : q = q' ∧ c = c' := by
  have hlane := (h.lane_lt hq).1
  have hlane' := (h.lane_lt hq').1
  obtain ⟨hlt, heq⟩ := channel_offset h.sizes hlane hc
  obtain ⟨hlt', heq'⟩ := channel_offset h.sizes hlane' hc'
  rw [heq, heq', Int.natCast_inj] at hoff
  obtain ⟨hbelow, hgroup⟩ := unit_inj (by omega) (by omega) hoff
  obtain ⟨hbyte, hchannel⟩ := unit_inj hlane hlane'
    (show c * s.der.pcb.toNat + (s.laneAt q).1 = c' * s.der.pcb.toNat + (s.laneAt q').1 by omega)
  obtain ⟨hk, hxb, hb⟩ := lane_inj _ (h.sizes.column_lt hq.1) (Nat.mod_lt _ (by decide)) (h.sizes.column_lt hq'.1)
    (Nat.mod_lt _ (by decide)) (Prod.ext hbyte hbit)
  refine ⟨Prod.ext ?_ ?_, hchannel⟩
  · rw [← Nat.div_add_mod q.1 8, ← Nat.div_add_mod q'.1 8, hxb, hb]
  · rw [← Nat.div_add_mod q.2 s.der.rowpattern.toNat, ← Nat.div_add_mod q'.2 s.der.rowpattern.toNat, hk, hgroup]

theorem State.CanPlace.channel_surjective (h : s.CanPlace) {off bit : Nat} (hoff : off < s.der.bufsize.toNat)
    (hbit : bit < 8) : ∃ (q : Nat × Nat) (c : Nat), s.isPixel q ∧ c < 3 ∧
      s.redOffAt q - (c : Int) * (s.der.pcb.toNat : Int) = (off : Int) ∧ (s.laneAt q).2 = bit := by
  have hsizes := h.sizes
  have hrp := hsizes.rowpattern_pos
  have hpcb := hsizes.pcb_pos
  have hsbs := hsizes.sbs
  have hgroup : off / s.der.sbs.toNat < s.der.rowpattern.toNat :=
    Nat.div_lt_of_lt_mul (by rwa [Nat.mul_comm, ← hsizes.bufsize])
  have hrest : off % s.der.sbs.toNat < s.der.sbs.toNat := Nat.mod_lt _ (by omega)
  have hsplit := Nat.div_add_mod' off s.der.sbs.toNat
  generalize off / s.der.sbs.toNat = g at *
  obtain ⟨d, hd⟩ : ∃ d, d = s.der.sbs.toNat - 1 - off % s.der.sbs.toNat := ⟨_, rfl⟩
  have hdsplit := Nat.div_add_mod' d s.der.pcb.toNat
  obtain ⟨k, xb, b, hk, hxb, hb, hlane⟩ := lane_onto s.cfg.scanpattern (t := d % s.der.pcb.toNat)
    (by rw [← hsizes.pcb]; exact Nat.mod_lt d hpcb) hbit h.nrows_even
  have hat : s.laneAt (8 * xb + b, k * s.der.rowpattern.toNat + g) = (d % s.der.pcb.toNat, bit) := by
    rw [State.laneAt, Nat.mul_add_div (by decide), Nat.mul_add_mod, Nat.div_eq_of_lt hb, Nat.mod_eq_of_lt hb,
      Nat.mul_comm k, Nat.mul_add_div hrp, Nat.div_eq_of_lt hgroup]
    exact hlane
  have hc : d / s.der.pcb.toNat < 3 := Nat.div_lt_of_lt_mul (by omega)
  refine ⟨_, d / s.der.pcb.toNat, ⟨?column, ?row⟩, hc, ?offset, congrArg Prod.snd hat⟩
  case column =>
    have := hsizes.w8
    simp only
    omega
  case row =>
    rw [← hsizes.nrows, Nat.mul_comm s.der.rowpattern.toNat]
    exact unit_lt hgroup hk
  case offset =>
    rw [(channel_offset hsizes (by rw [hat]; exact Nat.mod_lt d hpcb) hc).2, hat, Int.natCast_inj, Nat.mul_comm k,
      Nat.mul_add_mod, Nat.mod_eq_of_lt hgroup]
    omega

end CanPlace

end Sys2Proof.Machine

namespace Sys2Proof.Proofs

open Sys2Proof.Machine

/-- Settles O26: steps 2 to 4 take the logical panel, and nothing else, into the panel. -/
theorem translatorPlacesThePanel : Obligations.TranslatorPlacesThePanel := by
  intro s x y h
  rw [← h.inPanel_panelCoord]
  refine ⟨fun hin => ?_, fun hout => h.canPlace.translate_drop hout⟩
  obtain ⟨hpix, hc⟩ := pixel_of_inPanel hin
  exact ⟨_, _, h.canPlace.translate_place hpix hc⟩

/-- Settles O27: a byte and bit tell scan group, channel, row and column; and every step before them is injective. -/
theorem translatorIsInjective : Obligations.TranslatorIsInjective := by
  intro s x y x' y' redOff redOff' bit bit' c c' hi hl hc hc' hplace hplace' hoff hbit
  obtain ⟨hcan, u, v, hpix, hcoord, rfl, rfl⟩ := State.translate_place_cases hi hl hplace
  obtain ⟨-, u', v', hpix', hcoord', rfl, rfl⟩ := State.translate_place_cases hi hl hplace'
  obtain ⟨hq, hchannel⟩ := hcan.channel_injective (hcan.stepRemap_isPixel hpix) (hcan.stepRemap_isPixel hpix') hc hc'
    hoff hbit
  obtain ⟨rfl, rfl⟩ := hcan.stepRemap_injective hpix hpix' hq
  obtain ⟨hx, hy⟩ := Prod.mk.inj (hcan.panelCoord_bijective.injective (hcoord.trans hcoord'.symm))
  exact ⟨hx, hy, hchannel⟩

/-- Settles O28: a bit of a bit-plane is a channel of a pixel of the panel, which some coordinate of the logical panel
is taken to. -/
theorem translatorIsOnto : Obligations.TranslatorIsOnto := by
  intro s off bit h h0 hoff hbit
  have hcan := h.canPlace
  obtain ⟨n, rfl⟩ := Int.eq_ofNat_of_zero_le h0
  obtain ⟨q, c, hq, hc, hred, rfl⟩ := hcan.channel_surjective (Int.ofNat_lt.1 hoff) (Nat.lt_succ_of_le hbit)
  obtain ⟨u, v, hpix, rfl⟩ := hcan.stepRemap_surjective hq
  obtain ⟨⟨x, y⟩, hcoord⟩ := hcan.panelCoord_bijective.surjective ((u : Int), (v : Int))
  refine ⟨x, y, _, c, hc, ?_, hcan.translate_place hpix hcoord, hred⟩
  rw [← h.inPanel_panelCoord, hcoord, inPanel_iff]
  exact ⟨by omega, Int.ofNat_lt.2 hpix.1, by omega, Int.ofNat_lt.2 hpix.2⟩

end Sys2Proof.Proofs

namespace Sys2Proof.Machine

/-! ### Where a pixel is placed, in the words of the spec -/

theorem swapBlocks_main (dx dy x y : Int) : swapBlocks .main dx dy (x, y) =
    if y / dy % 2 = 0 ∧ x / dx % 2 = 0 then (x + dx, y + dy)
    else if ¬ y / dy % 2 = 0 ∧ ¬ x / dx % 2 = 0 then (x - dx, y - dy) else (x, y) := by
  simp only [swapBlocks, Int.emod_two_ne_zero]

theorem swapBlocks_anti (dx dy x y : Int) : swapBlocks .anti dx dy (x, y) =
    if y / dy % 2 = 0 ∧ ¬ x / dx % 2 = 0 then (x - dx, y + dy)
    else if ¬ y / dy % 2 = 0 ∧ x / dx % 2 = 0 then (x + dx, y - dy) else (x, y) := by
  simp only [swapBlocks, Int.emod_two_ne_zero]

/-- The correction of step 9, pattern by pattern (R126 to R130); `line` is the offset of the other patterns. -/
theorem corrected_eq {pat : ScanPattern} {upper : Prop} [Decidable upper] {base line redOff : Int} {b bit : Nat} :
    (if pairedPattern pat then pairCorrect pat (decide upper) base b else .place line b) = .place redOff bit →
    (redOff, bit) =
      (match pat with
       | .line | .wzagzig | .vzag | .wzagzig2 => (line, b)
       | .zigzag => if upper then (base, b) else (base - 1, b)
       | .zagzig => if upper then (base - 1, b) else (base, b)
       | .zaggiz => if upper then (base - 1, 7 - b) else (base, b)
       | .zzagg =>
         if upper then (if b ≤ 3 then (base, b) else (base - 1, b - 4))
         else if b ≤ 3 then (base, b + 4) else (base - 1, b)
       | .zziagg =>
         if upper then (if b ≤ 3 then (base, b + 4) else (base - 1, b))
         else if b ≤ 3 then (base, b) else (base - 1, b - 4)) := by
  intro h
  have place {r : Int} {c : Nat} (hp : Translated.place r c = .place redOff bit) : (redOff, bit) = (r, c) := by
    obtain ⟨rfl, rfl⟩ := Translated.place.inj hp
    rfl
  cases pat <;> simp only [pairedPattern, pairCorrect, if_true, if_false, Bool.false_eq_true, decide_eq_true_eq] at h ⊢
  case zzagg => split at h <;> split at h <;> simp only [*, if_true, if_false] <;> exact place h
  case zziagg => split at h <;> split at h <;> simp only [*, if_true, if_false] <;> exact place h
  case zigzag => split at h <;> simp only [*, if_true, if_false] <;> exact place h
  case zagzig => split at h <;> simp only [*, if_true, if_false] <;> exact place h
  case zaggiz => split at h <;> simp only [*, if_true, if_false] <;> exact place h
  all_goals exact place h

theorem blockScanOf_eq_none {pat : ScanPattern} (h : ¬ (pat = .wzagzig ∨ pat = .vzag ∨ pat = .wzagzig2)) :
    blockScanOf pat = none := by
  cases pat <;> simp [blockScanOf] at h ⊢

theorem blockScanOf_eq_some {pat : ScanPattern} (h : pat = .wzagzig ∨ pat = .vzag ∨ pat = .wzagzig2) :
    ∃ p, blockScanOf pat = some p := by
  rcases h with rfl | rfl | rfl <;> exact ⟨_, rfl⟩

end Sys2Proof.Machine

namespace Sys2Proof.Proofs

open Sys2Proof.Machine

/-- Settles O25: the translator's steps in their order, with the derived registers replaced by what INIT derived them
from. -/
theorem translatorStaysInPlane : Obligations.TranslatorStaysInPlane := by
  intro s x y redOff bit hi hl hplace width height panels dx dy evenCol evenRow p2 p3 p4 q blocks rp w8 pcb last k back
    b upper base
  obtain ⟨hcan, u, v, hpix, hcoord, hred, hbit⟩ := State.translate_place_cases hi hl hplace
  have hsizes := hcan.sizes
  have hdx : (s.cfg.width.toNat / (2 * s.cfg.panels.toNat) : Nat) = dx := by push_cast; rfl
  have hdy : (s.cfg.height.toNat / 4 : Nat) = dy := by push_cast; rfl
  have hp2 : s.stepBlock (x, y) = p2 := by
    simp only [State.stepBlock, hdx, hdy, p2]
    cases s.cfg.blockpattern
    case abcd => rfl
    case dbca =>
      cases s.params.dbcaDiag
      · exact swapBlocks_main dx dy x y
      · exact swapBlocks_anti dx dy x y
  have hp4 : p4 = ((u : Int), (v : Int)) := by
    rw [← hcoord, State.panelCoord, hp2]
    rfl
  have hq : q = s.stepRemap u v := by simp only [q, hp4, Int.toNat_natCast]
  have hqpix : s.isPixel q := hq ▸ hcan.stepRemap_isPixel hpix
  rw [← hq] at hred hbit
  have hrp : rp = s.der.rowpattern.toNat := hsizes.rowpattern.symm
  have hw8 : w8 = (s.der.w8.toNat : Int) := by
    have := hsizes.w8
    simp only [w8, width]
    omega
  have hpcb : pcb = (s.der.pcb.toNat : Int) := by
    have hrow : height / (rp : Int) = (s.der.nrows.toNat : Int) := by
      simp only [height, hrp, ← hsizes.nrows, Nat.cast_mul]
      exact Int.mul_ediv_cancel_left _ (by exact_mod_cast hsizes.rowpattern_pos.ne')
    simp only [pcb, hrow, hw8, hsizes.pcb, Nat.cast_mul]
  have hsbs : 3 * pcb = (s.der.sbs.toNat : Int) := by rw [hpcb, hsizes.sbs]; norm_num
  have hlast : (s.groupEnd q.2 : Int) = last := by
    have hpos : 0 < s.der.sbs.toNat := by have := hsizes.sbs; have := hsizes.pcb_pos; omega
    simp only [last, hsbs, State.groupEnd, hrp]
    rw [← Nat.cast_mul]
    omega
  have hrow : ((s.rowOff q.2).toNat : Int) = last := by rw [hi.rowOff_eq_groupEnd hl hqpix.2, hlast]
  have hk : q.2 / s.der.rowpattern.toNat = k := by simp only [k, hrp]
  have hlane := hcan.lane_lt hqpix
  rw [State.redOffAt, hlast] at hred
  refine ⟨?panel, fun hplain => ?plain, fun hblocks => ?remapped, ?subBlock, ?plane, ?pattern⟩
  case panel =>
    rw [hp4]
    exact ⟨Int.natCast_nonneg u, Int.ofNat_lt.2 hpix.1, Int.natCast_nonneg v, Int.ofNat_lt.2 hpix.2⟩
  case plain =>
    rw [hq, hp4, stepRemap_none (blockScanOf_eq_none hplain)]
    exact ⟨rfl, rfl⟩
  case remapped =>
    obtain ⟨p, hp⟩ := blockScanOf_eq_some hblocks
    obtain ⟨hcolumn, hchain⟩ := hcan.stepRemap_block hp hpix
    rw [← hq] at hcolumn hchain
    rw [hp4]
    exact ⟨Int.ofNat_lt.2 hqpix.1, Int.ofNat_lt.2 hqpix.2, congrArg Int.ofNat hcolumn, congrArg Int.ofNat hchain⟩
  case subBlock =>
    rw [hpcb]
    omega
  case plane =>
    have hrange := hcan.redOff_range hqpix
    rw [State.redOffAt, hlast, ← hred] at hrange
    rw [hpcb, hrp]
    refine ⟨hrange.1, ?_, by omega⟩
    rw [← hpcb, hsbs, ← Nat.cast_mul, ← hsizes.bufsize]
    exact hrange.2
  case pattern =>
    have hplaced : s.placePixel u v = .place redOff bit := by
      rw [hcan.placePixel_eq hpix, ← hq, ← hbit, State.redOffAt, hlast, ← hred]
    have hupper : s.upperHalf q.2 = decide upper := by simp only [State.upperHalf, upper, hrp]
    have hbase : s.pairBase q.1 q.2 = base := by
      simp only [State.pairBase, hrow, hk, base, back, hw8]
    have hline : s.lineOffset q.1 q.2 = last - (k * w8 + back) := by
      simp only [State.lineOffset, hrow, hk, back, hw8]
    rw [State.placePixel, ← hq] at hplaced
    simp only [hupper, hbase, hline] at hplaced
    exact corrected_eq hplaced

end Sys2Proof.Proofs

/-! PROOFS. The invariant of the whole machine (10_state.md R28, R29, 20_memory.md R56): it holds at reset, and every
command and every agent keeps it. -/

namespace Sys2Proof.Machine

/-! ### What each part of the invariant reads -/

theorem State.Initialised.congr {s t : State} (h : s.Initialised) (hgeo : geometryOk t.cfg = geometryOk s.cfg)
    (hsizes : deriveSizes t.cfg = deriveSizes s.cfg) (hheight : t.cfg.height = s.cfg.height) (hder : t.der = s.der)
    (hticks : t.ticksWith t.cfg.fps.toNat t.cfg.bushz.toNat = s.ticksWith s.cfg.fps.toNat s.cfg.bushz.toNat)
    (hmuxseq : t.muxseq = s.muxseq) (hrowoff : t.rowoff = s.rowoff) (hsize : t.fb.size = s.fb.size) :
    t.Initialised where
  geometry := hgeo.trans h.geometry
  derived := by rw [hsizes, hder]; exact h.derived
  ticks := by rw [hticks, hder]; exact h.ticks
  muxseq := by rw [hmuxseq, hder]; exact h.muxseq
  rowoff := by rw [hrowoff, hheight, hder]; exact h.rowoff
  memory := by rw [hsize, hsizes]; exact h.memory
  addressable := hsize ▸ h.addressable

theorem State.PositionOk.congr {s t : State} {pos : RefreshPos} (h : s.PositionOk pos)
    (hrp : t.der.rowpattern = s.der.rowpattern) (hdepth : t.cfg.colordepth = s.cfg.colordepth)
    (hbase : t.dispBase = s.dispBase) (hmuxseq : t.muxseq = s.muxseq) (hbuf : t.der.bufsize = s.der.bufsize) :
    t.PositionOk pos where
  row := hrp ▸ h.row
  plane := hdepth ▸ h.plane
  cursor := by rw [hbase, hbuf, State.muxEntry, hmuxseq]; exact h.cursor

theorem State.HostOpOk.congr {s t : State} (h : s.HostOpOk) (hop : t.hostOp = s.hostOp)
    (hdepth : t.cfg.colordepth = s.cfg.colordepth) (hpcb : t.der.pcb = s.der.pcb)
    (hbuf : t.der.bufsize = s.der.bufsize) (hfb : t.der.fbsize = s.der.fbsize) (hsize : t.fb.size = s.fb.size) :
    t.HostOpOk := by
  unfold State.HostOpOk State.bufferAt at *
  rw [hop, hdepth, hpcb, hbuf, hfb, hsize]
  exact h

/-- The invariant reads neither GPO, TCOUNT, the trace, the inputs nor the counters; of REFUSED and ERRCODE only that
they are 0 together. -/
theorem State.Inv.of_frame {s : State} (hi : s.Inv) (refused : Bool) (errcode : ErrCode) (gpo : BitVec 7)
    (tcount : BitVec 32) (trace : List TraceEvent) (port : List Word) (schedule : List Turn) (turn : Nat)
    (hr : refused = false ↔ errcode = .none) :
    ({ s with
      refused := refused, errcode := errcode, gpo := gpo, tcount := tcount, trace := trace, port := port,
      schedule := schedule, turn := turn } : State).Inv :=
  { hi with
    refusal := hr
    initialised := fun hl => (hi.initialised hl).congr rfl rfl rfl rfl rfl rfl rfl rfl
    position := fun pos hp => (hi.position pos hp).congr rfl rfl rfl rfl rfl }

theorem State.Inv.takeTurn {s : State} (hi : s.Inv) : s.takeTurn.Inv :=
  hi.of_frame s.refused s.errcode s.gpo s.tcount s.trace s.port _ _ hi.refusal

theorem State.Inv.takeWord {s : State} (hi : s.Inv) (rest : List Word) : ({ s with port := rest } : State).Inv :=
  hi.of_frame s.refused s.errcode s.gpo s.tcount s.trace rest s.schedule s.turn hi.refusal

theorem State.Inv.refuse {s : State} (hi : s.Inv) {c : ErrCode} (hc : c ≠ .none) : (s.refuse c).Inv :=
  hi.of_frame true c s.gpo s.tcount s.trace s.port s.schedule s.turn (by simp [hc])

theorem State.Inv.emit {s : State} (hi : s.Inv) (e : TraceEvent) : (s.emit e).Inv :=
  hi.of_frame s.refused s.errcode s.gpo s.tcount _ s.port s.schedule s.turn hi.refusal

/-- A command in progress is one after INIT (R28). -/
theorem State.Inv.ready_of_command {s : State} (hi : s.Inv) (ho : s.hostOp ≠ .ready) : s.life ≠ .uninit := fun hl => by
  obtain ⟨-, hready, -⟩ := hi.emptyBefore hl
  exact ho hready

/-! ### Reset -/

@[simp] theorem State.resetEvent_cfg (s : State) : s.resetEvent.cfg = ConfigRegs.reset := rfl
@[simp] theorem State.resetEvent_gpo (s : State) : s.resetEvent.gpo = 0 := rfl

/-- Reset answers a state without memory, command or transfer (10_state.md R27). -/
theorem inv_resetEvent (s : State) : s.resetEvent.Inv where
  memoryForm := Memory.discard_wf s.fb
  refusal := ⟨fun _ => rfl, fun _ => rfl⟩
  widthLegal := by rw [State.resetEvent_cfg]; decide
  heightLegal := by rw [State.resetEvent_cfg]; decide
  colordepthLegal := by rw [State.resetEvent_cfg]; decide
  panelsLegal := by rw [State.resetEvent_cfg]; decide
  emptyBefore _ := ⟨rfl, rfl, rfl⟩
  initialised h := absurd rfl h
  timer := rfl
  position _ h := by cases h
  oneBuffer _ := rfl
  engine := Nat.le_refl 0
  engineInside h := by cases h
  command := trivial

theorem linesInv_resetEvent (s : State) : s.resetEvent.LinesInv where
  unused := by rw [State.rowAddress, State.resetEvent_gpo, State.resetEvent_cfg]; decide
  latch := by rw [State.resetEvent_gpo]; decide
  blank _ := by rw [State.resetEvent_gpo]; decide
  quiet _ := rfl
  rows _ h := by cases h

/-! ### Scan groups inside memory -/

section ScanGroups

variable {s : State}

theorem State.Initialised.muxEntry_eq (h : s.Initialised) {i : Nat} (hi : i < s.der.rowpattern.toNat) :
    s.muxEntry i = muxSeqEntry s.der.rowpattern.toNat s.der.sbs.toNat i := by
  rw [State.muxEntry, h.muxseq, muxSeqTable_getElem? hi]
  rfl

theorem State.SizesExact.gray_lt (h : s.SizesExact) {i : Nat} (hi : i < s.der.rowpattern.toNat) :
    gray i < s.der.rowpattern.toNat := by
  rw [h.rowpattern] at hi ⊢
  exact Machine.gray_lt hi

/-- The scan group a MUXSEQ entry points at lies inside a bit-plane (R86). -/
theorem State.Inv.muxEntry_offset (hi : s.Inv) (hl : s.life ≠ .uninit) {i : Nat} (h : i < s.der.rowpattern.toNat) :
    (s.muxEntry i).offset.toNat + s.der.sbs.toNat ≤ s.der.bufsize.toNat := by
  have hsizes := hi.sizesExact hl
  have hgroup : (gray i + 1) * s.der.sbs.toNat ≤ s.der.bufsize.toNat := by
    rw [hsizes.bufsize]
    exact Nat.mul_le_mul_right _ (hsizes.gray_lt h)
  rw [Nat.succ_mul] at hgroup
  have hle : (s.muxEntry i).offset.toNat ≤ gray i * s.der.sbs.toNat := by
    rw [(hi.initialised hl).muxEntry_eq h, muxSeqEntry, BitVec.toNat_ofNat]
    exact Nat.mod_le _ _
  omega

/-- The scan group at any row and bit-plane of a buffer lies in memory (R56). -/
theorem State.Inv.scanGroup_inside (hi : s.Inv) (hl : s.life ≠ .uninit) {base row plane : Nat}
    (hbase : s.bufferAt base) (hrow : row < s.der.rowpattern.toNat) (hplane : plane < s.cfg.colordepth.toNat) :
    base + (s.muxEntry row).offset.toNat + plane * s.der.bufsize.toNat + s.der.sbs.toNat ≤ s.fb.size := by
  have hoffset := hi.muxEntry_offset hl hrow
  have hplanes : (plane + 1) * s.der.bufsize.toNat ≤ s.cfg.colordepth.toNat * s.der.bufsize.toNat :=
    Nat.mul_le_mul_right _ hplane
  rw [← (hi.sizesExact hl).fbsize, Nat.succ_mul] at hplanes
  unfold State.bufferAt at hbase
  omega

theorem State.SizesExact.sbs_pos (h : s.SizesExact) : 0 < s.der.sbs.toNat := by
  have := h.sbs
  have := h.pcb_pos
  omega

/-- A refresh position whose CURSOR was computed from its row and bit-plane: no bit of the sum is lost. -/
theorem State.Inv.positionOk (hi : s.Inv) (hl : s.life ≠ .uninit) {pos : RefreshPos}
    (hrow : pos.row.toNat < s.der.rowpattern.toNat) (hplane : pos.plane.toNat < s.cfg.colordepth.toNat)
    (hcursor : pos.cursor = BitVec.ofNat 32
      (s.dispBase + (s.muxEntry pos.row.toNat).offset.toNat + pos.plane.toNat * s.der.bufsize.toNat)) :
    s.PositionOk pos := by
  refine ⟨hrow, hplane, ?_⟩
  have hinside := hi.scanGroup_inside hl (hi.sizesExact hl).bufferAt_dispBase hrow hplane
  have hfit := (hi.initialised hl).addressable
  have hpos := (hi.sizesExact hl).sbs_pos
  rw [hcursor, BitVec.toNat_ofNat, Nat.mod_eq_of_lt (by omega)]

theorem State.Inv.rowpattern_le (hi : s.Inv) (hl : s.life ≠ .uninit) : s.der.rowpattern.toNat ≤ 32 := by
  obtain ⟨hm, -⟩ := (geometryOk_iff s.cfg).1 (hi.initialised hl).geometry
  rw [(hi.sizesExact hl).rowpattern]
  rcases hm with h | h | h <;> rw [h] <;> decide

/-! ### The advance of the refresh position (R165) -/

theorem State.advance_row {pos : RefreshPos} (h : pos.plane.toNat + 1 = s.cfg.colordepth.toNat) :
    s.advance pos = {
      row := BitVec.ofNat 5 ((pos.row.toNat + 1) % s.der.rowpattern.toNat)
      plane := 0#3
      cursor := BitVec.ofNat 32
        (s.dispBase + (s.muxEntry ((pos.row.toNat + 1) % s.der.rowpattern.toNat)).offset.toNat) } := by
  simp only [State.advance, h, if_true]

theorem State.advance_plane {pos : RefreshPos} (h : pos.plane.toNat + 1 ≠ s.cfg.colordepth.toNat) :
    s.advance pos = { pos with
      plane := BitVec.ofNat 3 (pos.plane.toNat + 1)
      cursor := BitVec.ofNat 32 (pos.cursor.toNat + s.der.bufsize.toNat) } := by
  simp only [State.advance, h, if_false]

/-- The next row and bit-plane as numbers: the next bit-plane, or after the last one the first of the next row. -/
theorem State.Inv.advance_toNat (hi : s.Inv) (hl : s.life ≠ .uninit) {pos : RefreshPos} (hp : s.PositionOk pos) :
    if pos.plane.toNat + 1 = s.cfg.colordepth.toNat then
      (s.advance pos).row.toNat = (pos.row.toNat + 1) % s.der.rowpattern.toNat ∧ (s.advance pos).plane.toNat = 0
    else (s.advance pos).row = pos.row ∧ (s.advance pos).plane.toNat = pos.plane.toNat + 1 := by
  have hrp := hi.rowpattern_le hl
  have hrow := Nat.mod_lt (pos.row.toNat + 1) (hi.sizesExact hl).rowpattern_pos
  have hdepth := hi.colordepthLegal.2
  have hplane := hp.plane
  split
  next h =>
    rw [State.advance_row h]
    exact ⟨by simp only [BitVec.toNat_ofNat]; omega, rfl⟩
  next h =>
    rw [State.advance_plane h]
    exact ⟨rfl, by simp only [BitVec.toNat_ofNat]; omega⟩

theorem State.Inv.advance_positionOk (hi : s.Inv) (hl : s.life ≠ .uninit) {pos : RefreshPos} (hp : s.PositionOk pos) :
    s.PositionOk (s.advance pos) := by
  have hnext := hi.advance_toNat hl hp
  have hdepth := hi.colordepthLegal.1
  have hplane := hp.plane
  split at hnext
  next h =>
    obtain ⟨hrow, hzero⟩ := hnext
    refine hi.positionOk hl ?_ (by omega) ?_
    · rw [hrow]
      exact Nat.mod_lt _ (hi.sizesExact hl).rowpattern_pos
    · rw [hrow, hzero, Nat.zero_mul, Nat.add_zero, State.advance_row h]
  next h =>
    obtain ⟨hrow, hsucc⟩ := hnext
    refine hi.positionOk hl (hrow ▸ hp.row) (by omega) ?_
    rw [hrow, hsucc, Nat.succ_mul, ← Nat.add_assoc, ← hp.cursor, State.advance_plane h]

end ScanGroups

end Sys2Proof.Machine

namespace Sys2Proof.Proofs

open Sys2Proof.Machine

/-- Settles O50: the state after reset is what the reset event makes of it. -/
theorem invAtReset : Obligations.InvAtReset := ⟨inv_resetEvent State.reset, linesInv_resetEvent State.reset⟩

end Sys2Proof.Proofs

namespace Sys2Proof.Machine

/-! ### Commands keep the invariant -/

section Commands

variable {s : State}

theorem SetterChange.geometryOk_eq {l : Life} {c c' : ConfigRegs} (h : SetterChange l c c') (hl : l ≠ .uninit) :
    geometryOk c' = geometryOk c := by
  obtain ⟨hw, hh, hm, -, -⟩ := h.geo hl
  simp only [geometryOk, hw, hh, hm, h.timing.2]

theorem SetterChange.deriveSizes_eq {l : Life} {c c' : ConfigRegs} (h : SetterChange l c c') (hl : l ≠ .uninit) :
    deriveSizes c' = deriveSizes c := by
  obtain ⟨hw, hh, hm, hd, hb⟩ := h.geo hl
  simp only [deriveSizes, hw, hh, hm, hd, hb]

theorem State.Inv.setter (hi : s.Inv) {c : ConfigRegs} (h : SetterChange s.life s.cfg c) :
    ({ s with cfg := c } : State).Inv :=
  { hi with
    widthLegal := h.w hi.widthLegal
    heightLegal := h.h hi.heightLegal
    colordepthLegal := h.cd hi.colordepthLegal
    panelsLegal := h.pan hi.panelsLegal
    initialised := fun hl => by
      obtain ⟨-, hheight, -, hdepth, -⟩ := h.geo hl
      refine (hi.initialised hl).congr (h.geometryOk_eq hl) (h.deriveSizes_eq hl) hheight rfl ?_ rfl rfl rfl
      simp only [State.ticksWith, hdepth, h.timing.1, h.timing.2]
    position := fun pos hp => by
      have hl : s.life ≠ .uninit := by rw [show s.life = .armed pos from hp]; simp
      obtain ⟨-, -, -, hdepth, hdbuf⟩ := h.geo hl
      refine (hi.position pos hp).congr rfl hdepth ?_ rfl rfl
      simp only [State.dispBase, State.storageBase, hdbuf]
    oneBuffer := fun hd => by
      by_cases hl : s.life = .uninit
      · obtain ⟨-, -, hsel⟩ := hi.emptyBefore hl
        exact hsel
      · obtain ⟨-, -, -, -, hdbuf⟩ := h.geo hl
        exact hi.oneBuffer (hdbuf ▸ hd)
    command := by
      by_cases hl : s.life = .uninit
      · obtain ⟨-, hop, -⟩ := hi.emptyBefore hl
        simp only [State.HostOpOk, hop]
      · obtain ⟨-, -, -, hdepth, -⟩ := h.geo hl
        exact hi.command.congr rfl hdepth rfl rfl rfl rfl }

theorem State.Inv.timingUninit (hi : s.Inv) (hl : s.life = .uninit) (fps : BitVec 16) (bushz : BitVec 32) :
    ({ s with cfg := { s.cfg with fps := fps, bushz := bushz } } : State).Inv :=
  { hi with
    initialised := fun h => absurd hl h
    position := fun pos hp => (hi.position pos hp).congr rfl rfl rfl rfl rfl }

/-- SETFPS and SETBUSHZ after INIT write BASETICKS, which no other derived register depends on (R101, R102). -/
theorem State.Inv.timing (hi : s.Inv) (hl : s.life ≠ .uninit) {fps : BitVec 16} {bushz : BitVec 32} {t : Nat}
    (ht : s.ticksWith fps.toNat bushz.toNat = some t) (hb : s.cfg.bushz.toNat ≠ 0 → bushz.toNat ≠ 0) :
    ({ s with
      cfg := { s.cfg with fps := fps, bushz := bushz }
      der := { s.der with baseticks := BitVec.ofNat 32 t } } : State).Inv := by
  have hini := hi.initialised hl
  have hcount : (BitVec.ofNat 32 t).toNat = t := by
    rw [BitVec.toNat_ofNat, Nat.mod_eq_of_lt (baseticks_lt ht)]
  exact { hi with
    initialised := fun _ => {
      geometry := by
        obtain ⟨hm, hw, hw8, hh, hhrp, hbus⟩ := (geometryOk_iff s.cfg).1 hini.geometry
        exact (geometryOk_iff _).2 ⟨hm, hw, hw8, hh, hhrp, hb hbus⟩
      derived := by
        simp only [hcount]
        rw [hini.derived]
        rfl
      ticks := by rw [hcount]; exact ht
      muxseq := hini.muxseq
      rowoff := hini.rowoff
      memory := hini.memory
      addressable := hini.addressable }
    position := fun pos hp => (hi.position pos hp).congr rfl rfl rfl rfl rfl }

theorem State.Inv.init (hi : s.Inv) (hl : s.life = .uninit) (hg : geometryOk s.cfg = true) (hf : s.fitsMemory = true)
    {t : Nat} (ht : s.initTicks = some t) : (s.initialised (deriveSizes s.cfg) t).Inv := by
  obtain ⟨hempty, hready, -⟩ := hi.emptyBefore hl
  obtain ⟨hrp, -, -, -, hsbs, -⟩ := derivedOf_exact s.cfg t hg hi.widthLegal hi.heightLegal hi.colordepthLegal
  have hcount : (BitVec.ofNat 32 t).toNat = t := by
    rw [BitVec.toNat_ofNat, Nat.mod_eq_of_lt (baseticks_lt ht)]
  exact {
    memoryForm := Memory.create_wf _ _
    refusal := hi.refusal
    widthLegal := hi.widthLegal
    heightLegal := hi.heightLegal
    colordepthLegal := hi.colordepthLegal
    panelsLegal := hi.panelsLegal
    emptyBefore := nofun
    initialised := fun _ => {
      geometry := hg
      derived := congrArg (derivedOf (deriveSizes s.cfg)) hcount.symm
      ticks := by
        show baseticks _ _ (derivedOf (deriveSizes s.cfg) t).rowpattern.toNat _
          (derivedOf (deriveSizes s.cfg) t).sbs.toNat _ = some (BitVec.ofNat 32 t).toNat
        rw [hrp, hsbs, hcount]
        exact ht
      muxseq := by
        show _ = muxSeqTable (derivedOf (deriveSizes s.cfg) t).rowpattern.toNat
          (derivedOf (deriveSizes s.cfg) t).sbs.toNat
        rw [hrp, hsbs]
        rfl
      rowoff := by
        show _ = rowOffTable _ (derivedOf (deriveSizes s.cfg) t).rowpattern.toNat
          (derivedOf (deriveSizes s.cfg) t).sbs.toNat
        rw [hrp, hsbs]
        rfl
      memory := rfl
      addressable := (Nat.le_min.1 (fitsMemory_iff.1 hf)).2 }
    timer := by
      have := hi.timer
      rwa [hl] at this
    position := nofun
    oneBuffer := fun _ => rfl
    engine := hi.engine
    engineInside := fun hb => by
      have := hi.engineInside hb
      rw [hempty] at this
      exact this.trans (Nat.zero_le _)
    command := by
      have hop : (s.initialised (deriveSizes s.cfg) t).hostOp = .ready := hready
      simp only [State.HostOpOk, hop] }

/-- A refresh position is created or moved: the rest of the state does not know of it. -/
theorem State.Inv.arm (hi : s.Inv) (hl : s.life ≠ .uninit) {pos : RefreshPos} (hp : s.PositionOk pos) :
    ({ s with life := .armed pos, tarmed := true } : State).Inv :=
  { hi with
    emptyBefore := nofun
    initialised := fun _ => (hi.initialised hl).congr rfl rfl rfl rfl rfl rfl rfl rfl
    timer := rfl
    position := fun _ hp' => Life.armed.inj hp' ▸ hp.congr rfl rfl rfl rfl rfl }

theorem State.Inv.enable (hi : s.Inv) (hl : s.life = .idle) :
    ({ s.gpoClr (usedLines s.cfg.muxbits.toNat) with
      life := .armed ⟨0#5, 0#3, BitVec.ofNat 32 (s.dispBase + (s.muxEntry 0).offset.toNat)⟩ }.timerArm
        s.der.baseticks).Inv := by
  have hl' : s.life ≠ .uninit := by simp [hl]
  have hp := hi.positionOk hl' (pos := ⟨0#5, 0#3, BitVec.ofNat 32 (s.dispBase + (s.muxEntry 0).offset.toNat)⟩)
    (hi.sizesExact hl').rowpattern_pos hi.colordepthLegal.1 (by simp)
  exact (hi.arm hl' hp).of_frame s.refused s.errcode _ _ _ s.port s.schedule s.turn hi.refusal

theorem State.Inv.disable (hi : s.Inv) (hl : s.life ≠ .uninit) :
    ({ (s.gpoClr Config.oeMask).timerDetach with life := .idle } : State).Inv :=
  { hi with
    emptyBefore := nofun
    initialised := fun _ => (hi.initialised hl).congr rfl rfl rfl rfl rfl rfl rfl rfl
    timer := rfl
    position := nofun }

theorem State.Inv.swapIdle (hi : s.Inv) (hl : s.life = .idle) (hd : s.cfg.dbuf = true) :
    ({ s with life := .idle, sel := !s.sel } : State).Inv :=
  { hi with
    emptyBefore := nofun
    initialised := fun _ => (hi.initialised (by simp [hl])).congr rfl rfl rfl rfl rfl rfl rfl rfl
    timer := by
      have := hi.timer
      rwa [hl] at this
    position := nofun
    oneBuffer := fun h => by simp [hd] at h }

theorem State.Inv.swapArmed (hi : s.Inv) {pos : RefreshPos} (hl : s.life = .armed pos) (hd : s.cfg.dbuf = true) :
    ({ s with
      sel := !s.sel
      life := .armed { pos with
        cursor := BitVec.ofNat 32 (s.storageBase (!s.sel) + (s.muxEntry pos.row.toNat).offset.toNat
          + pos.plane.toNat * s.der.bufsize.toNat) } } : State).Inv := by
  have hl' : s.life ≠ .uninit := by simp [hl]
  have hp := hi.position pos hl
  have hinside := hi.scanGroup_inside hl' ((hi.sizesExact hl').bufferAt_storageBase (storage1 := !s.sel) fun _ => hd)
    hp.row hp.plane
  have hfit := (hi.initialised hl').addressable
  have hpos := (hi.sizesExact hl').sbs_pos
  exact { hi with
    emptyBefore := nofun
    initialised := fun _ => (hi.initialised hl').congr rfl rfl rfl rfl rfl rfl rfl rfl
    timer := by
      have := hi.timer
      rwa [hl] at this
    position := fun _ hp' => Life.armed.inj hp' ▸ {
      row := hp.row
      plane := hp.plane
      cursor := by
        simp only [BitVec.toNat_ofNat, State.dispBase, hd, if_true]
        exact Nat.mod_eq_of_lt (by omega) }
    oneBuffer := fun h => by simp [hd] at h }

/-- The byte steps a command leaves to do stay inside a buffer (R56). -/
theorem State.Inv.started_ok (hi : s.Inv) (hl : s.life ≠ .uninit) {op : HostOp} (h : Started s op) :
    ({ s with hostOp := op } : State).HostOpOk := by
  have hsizes := hi.sizesExact hl
  cases h with
  | pixel x y redOff ch bit hplace h0 =>
    obtain ⟨hcan, u, v, hpix, -, rfl, rfl⟩ := State.translate_place_cases hi hl hplace
    have hq := hcan.stepRemap_isPixel hpix
    have hrange := hcan.redOff_range hq
    exact ⟨hsizes.bufferAt_editBase, hrange.1, hrange.2, Nat.le_of_lt_succ (hcan.lane_lt hq).2, h0⟩
  | clear sel h0 => exact ⟨hsizes.bufferAt_roleBase sel, h0⟩
  | copy dir h0 =>
    cases dir
    · exact ⟨hsizes.bufferAt_dispBase, hsizes.bufferAt_editBase, h0⟩
    · exact ⟨hsizes.bufferAt_editBase, hsizes.bufferAt_dispBase, h0⟩

/-- The memory and the command in progress change together, as in a byte step or the first step of a command. -/
theorem State.Inv.withHostOp (hi : s.Inv) (hl : s.life ≠ .uninit) {fb : Memory} {op : HostOp}
    (hsize : fb.size = s.fb.size) (hwf : fb.wf = true) (hop : ({ s with fb := fb, hostOp := op } : State).HostOpOk) :
    ({ s with fb := fb, hostOp := op } : State).Inv :=
  { hi with
    memoryForm := hwf
    emptyBefore := fun h => absurd h hl
    initialised := fun _ => (hi.initialised hl).congr rfl rfl rfl rfl rfl rfl rfl hsize
    position := fun pos hp => (hi.position pos hp).congr rfl rfl rfl rfl rfl
    engineInside := fun hb => hsize ▸ hi.engineInside hb
    command := hop }

/-- Every command keeps the invariant. -/
theorem exec_keeps_inv {i : Instr} {t : State} (hi : s.Inv) (h : exec i s = .next t) : t.Inv := by
  cases exec_effect h with
  | refuse _ c hc => exact hi.refuse hc
  | none => exact hi
  | init hl hg hf t ht => exact hi.init hl hg hf ht
  | setter _ c hc => exact hi.setter hc
  | timing0 _ fps bushz hl => exact hi.timingUninit hl fps bushz
  | timing _ fps bushz t hl ht hb => exact hi.timing hl ht hb
  | enable hl => exact hi.enable hl
  | disable hl => exact hi.disable hl
  | started _ op hl hop => exact hi.withHostOp hl rfl hi.memoryForm (hi.started_ok hl hop)
  | resp _ v => exact hi.emit _
  | swapIdle _ hl hd => exact hi.swapIdle hl hd
  | swapArmed _ pos hl hd => exact hi.swapArmed hl hd

end Commands

/-! ### Byte steps -/

section ByteSteps

variable {s : State}

theorem afterStep_cases (k n : Nat) (op : HostOp) :
    (k + 1 < n ∧ afterStep k n op = op) ∨ (n ≤ k + 1 ∧ afterStep k n op = .ready) := by
  unfold afterStep
  split
  next h => exact .inl ⟨h, rfl⟩
  next h => exact .inr ⟨Nat.le_of_not_lt h, rfl⟩

/-- The byte of any channel in any bit-plane lies inside the buffer (20_memory.md R43). -/
theorem State.SizesExact.laneAddr_inside (h : s.SizesExact) {base p c : Nat} {redOff : Int}
    (h2 : 2 * (s.der.pcb.toNat : Int) ≤ redOff) (hlt : redOff < (s.der.bufsize.toNat : Int))
    (hp : p < s.cfg.colordepth.toNat) (hc : c < 3) :
    (base : Int) ≤ s.laneAddr base redOff p c ∧
      s.laneAddr base redOff p c < (base + s.der.fbsize.toNat : Nat) := by
  have hplanes : (p + 1) * s.der.bufsize.toNat ≤ s.der.fbsize.toNat :=
    h.fbsize ▸ Nat.mul_le_mul_right _ hp
  have hchannel : c * s.der.pcb.toNat ≤ 2 * s.der.pcb.toNat := Nat.mul_le_mul_right _ (Nat.le_of_lt_succ hc)
  rw [Nat.succ_mul] at hplanes
  rw [State.laneAddr, ← Nat.cast_mul, ← Nat.cast_mul]
  omega

/-- A buffer's bytes exist. -/
theorem State.bufferAt.exists_byte {base : Nat} (h : s.bufferAt base) {a : Int} (h0 : (base : Int) ≤ a)
    (h1 : a < (base + s.der.fbsize.toNat : Nat)) : 0 ≤ a ∧ a < (s.fb.size : Int) := by
  unfold State.bufferAt at h
  omega

theorem State.bufferAt.congr {t : State} {base : Nat} (h : s.bufferAt base) (hder : t.der = s.der)
    (hsize : t.fb.size = s.fb.size) : t.bufferAt base := by
  unfold State.bufferAt at *
  rwa [hder, hsize]

/-- The next byte step of a command in progress, every command alike: an existing byte is read, an existing byte is
stored, and `op` is what the command then is, until its `n` steps are taken. -/
structure State.NextByteStep (s : State) (src dst : Int) (f : Byte → Byte) (k n : Nat) (op : HostOp) : Prop where
  step : s.hostByteStep = s.byteStep src dst f (afterStep k n op)
  store : s.storeAddr = some dst
  source : 0 ≤ src ∧ src < (s.fb.size : Int)
  dest : 0 ≤ dst ∧ dst < (s.fb.size : Int)
  left : s.stepsLeft = n - k
  more : k < n
  bound : n ≤ max (3 * s.cfg.colordepth.toNat) s.der.fbsize.toNat
  ok : ∀ fb : Memory, fb.size = s.fb.size → k + 1 < n → ({ s with fb := fb, hostOp := op } : State).HostOpOk
  leftNext : ∀ fb : Memory, ({ s with fb := fb, hostOp := op } : State).stepsLeft = n - (k + 1)

/-- Under the invariant a command in progress has such a step. -/
theorem State.Inv.nextByteStep (hi : s.Inv) (ho : s.hostOp ≠ .ready) :
    ∃ src dst f k n op, s.NextByteStep src dst f k n op := by
  have hl : s.life ≠ .uninit := hi.ready_of_command ho
  have hsizes := hi.sizesExact hl
  have hok := hi.command
  unfold State.HostOpOk at hok
  cases hop : s.hostOp with
  | ready => exact absurd hop ho
  | scatter base redOff bit qR qG qB k =>
    rw [hop] at hok
    obtain ⟨hbase, h2, hlt, hbit, hk⟩ := hok
    have hin := hsizes.laneAddr_inside (base := base) h2 hlt (p := k / 3) (by omega) (Nat.mod_lt k (by decide))
    have hex := hbase.exists_byte hin.1 hin.2
    exact ⟨_, _, putBit bit ((Channels.get ⟨qR, qG, qB⟩ (k % 3)).testBit (k / 3)), k, _,
      .scatter base redOff bit qR qG qB (k + 1), {
      step := by simp only [State.hostByteStep, hop, State.scatterStep]
      store := by simp only [State.storeAddr, hop]
      source := hex
      dest := hex
      left := by simp only [State.stepsLeft, hop]
      more := hk
      bound := Nat.le_max_left _ _
      ok := fun fb hs hn => ⟨hbase.congr rfl hs, h2, hlt, hbit, hn⟩
      leftNext := fun _ => rfl }⟩
  | clear base k =>
    rw [hop] at hok
    obtain ⟨hbase, hk⟩ := hok
    have hex := hbase.exists_byte (a := (base + k : Nat)) (by omega) (by omega)
    exact ⟨_, _, fun _ => 0#8, k, _, .clear base (k + 1), {
      step := by simp only [State.hostByteStep, hop, State.clearStep]
      store := by simp only [State.storeAddr, hop]
      source := hex
      dest := hex
      left := by simp only [State.stepsLeft, hop]
      more := hk
      bound := Nat.le_max_right _ _
      ok := fun fb hs hn => ⟨hbase.congr rfl hs, hn⟩
      leftNext := fun _ => rfl }⟩
  | copy src dst k =>
    rw [hop] at hok
    obtain ⟨hsrc, hdst, hk⟩ := hok
    exact ⟨_, _, fun v => v, k, _, .copy src dst (k + 1), {
      step := by simp only [State.hostByteStep, hop, State.copyStep]
      store := by simp only [State.storeAddr, hop]
      source := hsrc.exists_byte (a := (src + k : Nat)) (by omega) (by omega)
      dest := hdst.exists_byte (a := (dst + k : Nat)) (by omega) (by omega)
      left := by simp only [State.stepsLeft, hop]
      more := hk
      bound := Nat.le_max_right _ _
      ok := fun fb hs hn => ⟨hsrc.congr rfl hs, hdst.congr rfl hs, hn⟩
      leftNext := fun _ => rfl }⟩

theorem State.NextByteStep.next {src dst : Int} {f : Byte → Byte} {k n : Nat} {op : HostOp}
    (h : s.NextByteStep src dst f k n op) : ∃ t, s.hostByteStep = .next t :=
  ⟨_, h.step.trans (State.byteStep_next f _ h.source h.dest)⟩

theorem hostByteStep_ready (ho : s.hostOp = .ready) : s.hostByteStep = .next s := by
  simp only [State.hostByteStep, ho]

/-- Under the invariant a byte step has an answer. -/
theorem State.Inv.hostByteStep_next (hi : s.Inv) : ∃ t, s.hostByteStep = .next t := by
  by_cases ho : s.hostOp = .ready
  · exact ⟨s, hostByteStep_ready ho⟩
  · obtain ⟨_, _, _, _, _, _, h⟩ := hi.nextByteStep ho
    exact h.next

theorem hostByteStep_keeps_inv {t : State} (hi : s.Inv) (h : s.hostByteStep = .next t) : t.Inv := by
  by_cases ho : s.hostOp = .ready
  · rw [hostByteStep_ready ho] at h
    injection h with h
    exact h ▸ hi
  · have hl : s.life ≠ .uninit := hi.ready_of_command ho
    obtain ⟨src, dst, f, k, n, op, hstep⟩ := hi.nextByteStep ho
    obtain ⟨old, fb, -, hw, rfl⟩ := State.byteStep_cases (hstep.step.symm.trans h)
    refine hi.withHostOp hl (Memory.write_size hw) (Memory.write_wf hw hi.memoryForm) ?_
    rcases afterStep_cases k n op with ⟨hn, hop⟩ | ⟨-, hop⟩ <;> rw [hop]
    · exact hstep.ok fb (Memory.write_size hw) hn
    · trivial

end ByteSteps

/-! ### The other agents -/

section Agents

variable {s : State}

/-- A TICK advances the position and starts the transfer of the scan group it then points at (R165, R166). -/
theorem State.Inv.tick (hi : s.Inv) {pos : RefreshPos} (hl : s.life = .armed pos) : (s.tick pos).Inv := by
  have hl' : s.life ≠ .uninit := by simp [hl]
  have hp := hi.advance_positionOk hl' (hi.position pos hl)
  have hinside := hi.scanGroup_inside hl' (hi.sizesExact hl').bufferAt_dispBase hp.row hp.plane
  rw [← hp.cursor] at hinside
  have harmed : ({ s with life := .armed (s.advance pos), tarmed := true, tx :=
      { busy := true, addr := (s.advance pos).cursor, len := s.der.sbs, pos := 0 } } : State).Inv :=
    { hi.arm hl' hp with
      initialised := fun _ => (hi.initialised hl').congr rfl rfl rfl rfl rfl rfl rfl rfl
      position := fun _ hp' => Life.armed.inj hp' ▸ hp.congr rfl rfl rfl rfl rfl
      engine := Nat.zero_le _
      engineInside := fun _ => hinside }
  rw [State.tick_eq]
  exact harmed.of_frame s.refused s.errcode _ _ _ s.port s.schedule s.turn hi.refusal

theorem schedStep_keeps_inv {t : State} (hi : s.Inv) (h : s.schedStep = .next t) : t.Inv := by
  rcases schedStep_cases h with rfl | ⟨pos, hl, -, -, rfl⟩
  · exact hi
  · exact hi.tick hl

theorem State.Inv.withTx (hi : s.Inv) {tx : TxEngine} (hpos : tx.pos.toNat ≤ tx.len.toNat)
    (hin : tx.busy = true → tx.addr.toNat + tx.len.toNat ≤ s.fb.size) : ({ s with tx := tx } : State).Inv :=
  { hi with
    initialised := fun hl => (hi.initialised hl).congr rfl rfl rfl rfl rfl rfl rfl rfl
    position := fun pos hp => (hi.position pos hp).congr rfl rfl rfl rfl rfl
    engine := hpos
    engineInside := hin }

theorem txStep_keeps_inv {t : State} (hi : s.Inv) (h : s.txStep = .next t) : t.Inv := by
  rcases txStep_cases h with rfl | ⟨hb, hlt, v, -, rfl⟩ | ⟨-, -, rfl⟩
  · exact hi
  · refine State.Inv.emit (hi.withTx (tx := { s.tx with pos := BitVec.ofNat 32 (s.tx.pos.toNat + 1) }) ?_
      fun _ => hi.engineInside hb) _
    simp only [BitVec.toNat_ofNat]
    omega
  · exact State.Inv.emit (hi.withTx (tx := { s.tx with busy := false }) hi.engine fun h => by cases h) _

end Agents

end Sys2Proof.Machine

namespace Sys2Proof.Proofs

open Sys2Proof.Machine

/-- Settles O51: by the agent whose turn it was. -/
theorem stepKeepsInv : Obligations.StepKeepsInv := by
  intro s t hi h
  rcases step_cases h with ⟨-, rfl⟩ | ⟨-, -, hstep⟩ | ⟨-, -, -, rfl⟩ | ⟨-, -, w, rest, i, -, -, -, hexec⟩ |
    ⟨-, -, w, rest, why, -, -, rfl⟩ | ⟨-, hstep⟩ | ⟨-, hstep⟩
  · exact inv_resetEvent _
  · exact hostByteStep_keeps_inv hi.takeTurn hstep
  · exact hi.takeTurn
  · exact exec_keeps_inv (hi.takeTurn.takeWord rest) hexec
  · exact (hi.takeTurn.takeWord rest).refuse (by simp)
  · exact schedStep_keeps_inv hi.takeTurn hstep
  · exact txStep_keeps_inv hi.takeTurn hstep

end Sys2Proof.Proofs

/-! PROOFS. Rules over every step (10_state.md, 60_exceptions.md section 1): faults, refusals, STATE, the locked
configuration, the bytes of FB, and BRIGHTNESS. -/

namespace Sys2Proof.Machine

/-! ### Faults -/

theorem schedStep_fault {s : State} {r : Fault} (h : s.schedStep = .fault r) :
    r = .timingViolation ∧ s.violates = true := by
  unfold State.schedStep at h
  split at h
  case h_1 pos hl =>
    split at h
    case isTrue ht =>
      split at h
      case isTrue hb =>
        injection h with h
        exact ⟨h.symm, by simp [State.violates, hl, Life.isArmed, ht, hb]⟩
      case isFalse => cases h
    case isFalse => cases h
  all_goals cases h

/-- Under the invariant TXENG finds its byte. -/
theorem State.Inv.txStep_next {s : State} (hi : s.Inv) : ∃ t, s.txStep = .next t := by
  cases hb : s.tx.busy
  case false => exact ⟨_, txStep_idle hb⟩
  have hin := hi.engineInside hb
  rcases Nat.lt_or_eq_of_le hi.engine with hlt | heq
  · exact ⟨_, txStep_byte hb hlt (by omega)⟩
  · exact ⟨_, txStep_done hb (BitVec.eq_of_toNat_eq heq)⟩

/-- Under the invariant HOST finds its byte; a command word never faults. -/
theorem State.Inv.hostStep_next {s : State} (hi : s.Inv) : ∃ t, s.hostStep = .next t := by
  by_cases ho : s.hostOp = .ready
  case neg =>
    rw [hostStep_inProgress ho]
    exact hi.hostByteStep_next
  cases hp : s.port
  case nil => exact ⟨_, hostStep_wait ho hp⟩
  case cons w rest =>
    rw [hostStep_word ho hp]
    exact runWord_total w _

/-! ### What a command leaves of REFUSED, STATE, the configuration and FB -/

section Effects

variable {s t : State} {i : Instr}

/-- A command is refused and does nothing else, or it leaves REFUSED and ERRCODE (60_exceptions.md R190). -/
theorem Effect.refusal (h : Effect s i t) :
    (∃ c, c ≠ .none ∧ t = s.refuse c) ∨ (t.refused = s.refused ∧ t.errcode = s.errcode) := by
  cases h with
  | refuse _ c hc => exact .inl ⟨c, hc, rfl⟩
  | _ => exact .inr ⟨rfl, rfl⟩

/-- INIT, ENABLE and DISABLE are the commands that change STATE (43_scheduler.md R160). -/
theorem Effect.life_code (h : Effect s i t) : t.life.code = s.life.code ∨
    (i = .init ∧ s.life = .uninit ∧ t.life = .idle) ∨ (i = .enable ∧ s.life = .idle ∧ t.life.isArmed = true) ∨
    (i = .disable ∧ s.life.isArmed = true ∧ t.life = .idle) := by
  cases h with
  | init hl => exact .inr (.inl ⟨rfl, hl, rfl⟩)
  | enable hl => exact .inr (.inr (.inl ⟨rfl, hl, rfl⟩))
  | disable hl =>
    cases h : s.life with
    | uninit => exact absurd h hl
    | idle => exact .inl rfl
    | armed pos => exact .inr (.inr (.inr ⟨rfl, rfl, rfl⟩))
  | swapIdle _ hl => exact .inl (by rw [hl])
  | swapArmed _ pos hl => exact .inl (by rw [hl]; rfl)
  | _ => exact .inl rfl

/-- What is locked in a state holds in another one too (10_state.md R14, R15, R54; 40_config.md R80). -/
structure LockedSame (s t : State) : Prop where
  geometry : s.life ≠ .uninit →
    t.cfg.width = s.cfg.width ∧ t.cfg.height = s.cfg.height ∧ t.cfg.muxbits = s.cfg.muxbits ∧
      t.cfg.colordepth = s.cfg.colordepth ∧ t.cfg.dbuf = s.cfg.dbuf
  derived : s.life ≠ .uninit →
    { t.der with baseticks := s.der.baseticks } = s.der ∧ t.muxseq = s.muxseq ∧ t.rowoff = s.rowoff ∧
      t.fb.size = s.fb.size ∧ t.fb.gen = s.fb.gen
  translator : s.life.isArmed = true →
    t.cfg.panels = s.cfg.panels ∧ t.cfg.rotate = s.cfg.rotate ∧ t.cfg.flip = s.cfg.flip ∧
      t.cfg.colororder = s.cfg.colororder ∧ t.cfg.scanpattern = s.cfg.scanpattern ∧
      t.cfg.blockpattern = s.cfg.blockpattern ∧ t.cfg.coloroffset = s.cfg.coloroffset

theorem LockedSame.of_eq (hcfg : t.cfg = s.cfg) (hder : t.der = s.der) (hmuxseq : t.muxseq = s.muxseq)
    (hrowoff : t.rowoff = s.rowoff) (hsize : t.fb.size = s.fb.size) (hgen : t.fb.gen = s.fb.gen) : LockedSame s t where
  geometry _ := by simp only [hcfg, and_self]
  derived _ := ⟨by rw [hder], hmuxseq, hrowoff, hsize, hgen⟩
  translator _ := by simp only [hcfg, and_self]

/-- Taking the turn and a word changes nothing that is locked. -/
theorem LockedSame.of_turn {rest : List Word} (h : LockedSame ({ s.takeTurn with port := rest } : State) t) :
    LockedSame s t := ⟨h.geometry, h.derived, h.translator⟩

theorem Effect.lockedSame (h : Effect s i t) : LockedSame s t := by
  cases h with
  | init hl => exact ⟨fun h => absurd hl h, fun h => absurd hl h, fun h => by simp [hl, Life.isArmed] at h⟩
  | setter _ c hc => exact ⟨hc.geo, fun _ => ⟨rfl, rfl, rfl, rfl, rfl⟩, hc.tr⟩
  | timing0 _ fps bushz hl =>
    exact ⟨fun _ => ⟨rfl, rfl, rfl, rfl, rfl⟩, fun _ => ⟨rfl, rfl, rfl, rfl, rfl⟩,
      fun _ => ⟨rfl, rfl, rfl, rfl, rfl, rfl, rfl⟩⟩
  | timing _ fps bushz n hl =>
    exact ⟨fun _ => ⟨rfl, rfl, rfl, rfl, rfl⟩, fun _ => ⟨rfl, rfl, rfl, rfl, rfl⟩,
      fun _ => ⟨rfl, rfl, rfl, rfl, rfl, rfl, rfl⟩⟩
  | _ => exact .of_eq rfl rfl rfl rfl rfl rfl

/-- Only INIT touches FB in a command's first step (42_framebuffer.md R148). -/
theorem Effect.fb_eq (h : Effect s i t) (hl : s.life ≠ .uninit) : t.fb = s.fb := by
  cases h with
  | init hu => exact absurd hu hl
  | _ => rfl

end Effects

/-! ### What the other agents leave -/

section Agents

variable {s t : State}

/-- What every agent's step leaves: REFUSED, STATE and what is locked. -/
structure AgentFrame (s t : State) : Prop where
  refused : t.refused = s.refused
  life : t.life.code = s.life.code
  locked : LockedSame s t

theorem schedStep_frame (h : s.schedStep = .next t) : AgentFrame s t ∧ t.fb = s.fb := by
  rcases schedStep_cases h with rfl | ⟨pos, hl, -, -, rfl⟩
  · exact ⟨⟨rfl, rfl, .of_eq rfl rfl rfl rfl rfl rfl⟩, rfl⟩
  · exact ⟨⟨by simp, by simp [hl, Life.code], .of_eq (by simp) (by simp) (by simp) (by simp) (by simp) (by simp)⟩,
      by simp⟩

theorem txStep_frame (h : s.txStep = .next t) : AgentFrame s t ∧ t.fb = s.fb := by
  rcases txStep_cases h with rfl | ⟨-, -, v, -, rfl⟩ | ⟨-, -, rfl⟩
  all_goals exact ⟨⟨rfl, rfl, .of_eq rfl rfl rfl rfl rfl rfl⟩, rfl⟩

/-- A byte step writes FB, where it stores to. -/
theorem hostByteStep_frame (h : s.hostByteStep = .next t) :
    AgentFrame s t ∧ ∀ a, s.storeAddr ≠ some a → t.fb.read a = s.fb.read a := by
  rcases hostByteStep_cases h with ⟨rfl, -⟩ | ⟨-, fb, op, rfl, hsize, hgen, -, hread⟩
  · exact ⟨⟨rfl, rfl, .of_eq rfl rfl rfl rfl rfl rfl⟩, fun _ _ => rfl⟩
  · exact ⟨⟨rfl, rfl, .of_eq rfl rfl rfl rfl hsize hgen⟩, hread⟩

end Agents

/-! ### BRIGHTNESS is read by nothing (43_scheduler.md R172) -/

section Brightness

variable (b : BitVec 8) (s : State)

theorem mapNext_ite (f : State → State) (p : Prop) [Decidable p] (x y : Host.Outcome State Fault Refusal) :
    mapNext f (if p then x else y) = if p then mapNext f x else mapNext f y := apply_ite (mapNext f) p x y

theorem setReg_withBrightness {isOpen : Bool} {c c' : Option ConfigRegs}
    (hc : c' = c.map fun r => { r with brightness := b }) :
    (s.withBrightness b).setReg isOpen c' = mapNext (State.withBrightness b) (s.setReg isOpen c) := by
  subst hc
  cases isOpen
  case false => rfl
  case true => cases c <;> rfl

theorem setReg_legalIf_withBrightness {isOpen ok : Bool} {c c' : ConfigRegs} (hc : c' = { c with brightness := b }) :
    (s.withBrightness b).setReg isOpen (legalIf ok c') =
      mapNext (State.withBrightness b) (s.setReg isOpen (legalIf ok c)) :=
  setReg_withBrightness b s (by subst hc; cases ok <;> rfl)

theorem setReg_map_withBrightness {isOpen : Bool} {α : Type} (o : Option α) {f f' : α → ConfigRegs}
    (hf : ∀ a, f' a = { f a with brightness := b }) :
    (s.withBrightness b).setReg isOpen (o.map f') = mapNext (State.withBrightness b) (s.setReg isOpen (o.map f)) :=
  setReg_withBrightness b s (by cases o <;> simp [hf])

theorem setTiming_withBrightness (legal : Bool) (fps : BitVec 16) (bushz : BitVec 32) :
    (s.withBrightness b).setTiming legal fps bushz =
      mapNext (State.withBrightness b) (s.setTiming legal fps bushz) := by
  have hticks : (s.withBrightness b).ticksWith fps.toNat bushz.toNat = s.ticksWith fps.toNat bushz.toNat := rfl
  simp only [State.setTiming, mapNext_ite, hticks]
  cases s.ticksWith fps.toNat bushz.toNat <;> rfl

theorem startPixel_withBrightness (x y : Int) (ch : Channels) :
    (s.withBrightness b).startPixel x y ch = mapNext (State.withBrightness b) (s.startPixel x y ch) := by
  have htranslate : (s.withBrightness b).translate x y = s.translate x y := rfl
  simp only [State.startPixel, mapNext_ite, htranslate]
  cases s.translate x y
  case place => simp only [mapNext_ite]; rfl
  all_goals rfl

theorem byteStep_withBrightness (src dst : Int) (f : Byte → Byte) (op : HostOp) :
    (s.withBrightness b).byteStep src dst f op = mapNext (State.withBrightness b) (s.byteStep src dst f op) := by
  have hfb : (s.withBrightness b).fb = s.fb := rfl
  simp only [State.byteStep, hfb]
  cases s.fb.read src
  case none => rfl
  case some old =>
    simp only
    cases s.fb.write dst (f old) <;> rfl

theorem hostByteStep_withBrightness :
    (s.withBrightness b).hostByteStep = mapNext (State.withBrightness b) s.hostByteStep := by
  have hop : (s.withBrightness b).hostOp = s.hostOp := rfl
  simp only [State.hostByteStep, hop]
  cases s.hostOp
  case ready => rfl
  all_goals exact byteStep_withBrightness b s _ _ _ _

theorem init_withBrightness :
    exec .init (s.withBrightness b) = mapNext (State.withBrightness b) (exec .init s) := by
  have hticks : (s.withBrightness b).initTicks = s.initTicks := rfl
  simp only [exec, execInit, mapNext_ite, hticks]
  cases s.initTicks <;> rfl

theorem enable_withBrightness :
    exec .enable (s.withBrightness b) = mapNext (State.withBrightness b) (exec .enable s) := by
  simp only [exec, execEnable, mapNext_ite]
  rfl

theorem disable_withBrightness :
    exec .disable (s.withBrightness b) = mapNext (State.withBrightness b) (exec .disable s) := by
  simp only [exec, execDisable, mapNext_ite]
  rfl

theorem swap_withBrightness :
    exec .swap (s.withBrightness b) = mapNext (State.withBrightness b) (exec .swap s) := by
  have hlife : (s.withBrightness b).life = s.life := rfl
  simp only [exec, execSwap, mapNext_ite, hlife]
  cases s.life <;> rfl

theorem clear_withBrightness (sel : BufferRole) :
    exec (.clear sel) (s.withBrightness b) = mapNext (State.withBrightness b) (exec (.clear sel) s) := by
  simp only [exec, execClear, mapNext_ite]
  cases sel <;> rfl

theorem copy_withBrightness (dir : CopyDir) :
    exec (.copy dir) (s.withBrightness b) = mapNext (State.withBrightness b) (exec (.copy dir) s) := by
  simp only [exec, execCopy, mapNext_ite]
  cases dir <;> rfl

/-- Every command but SETBRIGHTNESS does the same whatever BRIGHTNESS holds. -/
theorem exec_withBrightness {i : Instr} (hne : ∀ v, i ≠ .setbrightness v) :
    exec i (s.withBrightness b) = mapNext (State.withBrightness b) (exec i s) := by
  cases i
  case init => exact init_withBrightness b s
  case enable => exact enable_withBrightness b s
  case disable => exact disable_withBrightness b s
  case swap => exact swap_withBrightness b s
  case clear sel => exact clear_withBrightness b s sel
  case copy dir => exact copy_withBrightness b s dir
  case setpixel => exact startPixel_withBrightness b s _ _ _
  case setpixel565 => exact startPixel_withBrightness b s _ _ _
  case getpixel => rfl
  case setfps v => exact setTiming_withBrightness b s _ _ _
  case setbushz v => exact setTiming_withBrightness b s _ _ _
  case setbrightness v => exact absurd rfl (hne v)
  case setcolordepth v =>
    exact setReg_withBrightness b s (c := some { s.cfg with colordepth := clampColordepth v }) rfl
  case setdbuf v => exact setReg_map_withBrightness b s (bitOf v) fun _ => rfl
  case setrotate v => exact setReg_map_withBrightness b s (bitOf v) fun _ => rfl
  case setflip v => exact setReg_map_withBrightness b s (bitOf v) fun _ => rfl
  case setcolororder v => exact setReg_map_withBrightness b s (colorOrderOf v) fun _ => rfl
  case setscanpattern v => exact setReg_map_withBrightness b s (scanPatternOf v) fun _ => rfl
  case setblockpattern v => exact setReg_map_withBrightness b s (blockPatternOf v) fun _ => rfl
  all_goals exact setReg_legalIf_withBrightness b s rfl

/-- Steps 1 to 4 of a TICK (R164) read GPO and MUXSEQ. -/
theorem showLine_withBrightness (pos : RefreshPos) :
    (s.withBrightness b).showLine pos = (s.showLine pos).withBrightness b := by
  unfold State.showLine State.applyMux
  have hentry : (State.gpoClr Config.oeMask (s.withBrightness b)).muxEntry pos.row.toNat =
    (State.gpoClr Config.oeMask s).muxEntry pos.row.toNat := rfl
  simp only [hentry]
  cases ((State.gpoClr Config.oeMask s).muxEntry pos.row.toNat).cmd
  all_goals
    simp only
    split <;> rfl

theorem schedStep_withBrightness :
    (s.withBrightness b).schedStep = mapNext (State.withBrightness b) s.schedStep := by
  have hlife : (s.withBrightness b).life = s.life := rfl
  simp only [State.schedStep, hlife]
  cases s.life
  case armed pos =>
    have htick : (s.withBrightness b).tick pos = (s.tick pos).withBrightness b := by
      rw [State.tick_eq, State.tick_eq, showLine_withBrightness]
      rfl
    simp only [mapNext_ite, htick]
    rfl
  all_goals rfl

theorem txStep_withBrightness : (s.withBrightness b).txStep = mapNext (State.withBrightness b) s.txStep := by
  have hread (a : Int) : (s.withBrightness b).fb.read a = s.fb.read a := rfl
  have htx : (s.withBrightness b).tx = s.tx := rfl
  simp only [State.txStep, mapNext_ite, hread, htx]
  cases s.fb.read (s.tx.addr.toNat + s.tx.pos.toNat : Nat) <;> rfl

end Brightness

end Sys2Proof.Machine

namespace Sys2Proof.Proofs

open Sys2Proof.Machine

/-- Settles O53: HOST and TXENG find their bytes, so the fault is SCHED's. -/
theorem onlyTimingViolationFaults : Obligations.OnlyTimingViolationFaults := by
  intro s r hi h
  cases hturn : s.nextTurn
  case host =>
    rw [step_host hturn] at h
    obtain ⟨t, ht⟩ := hi.takeTurn.hostStep_next
    rw [ht] at h
    cases h
  case sched =>
    rw [step_sched hturn] at h
    obtain ⟨hr, hv⟩ := schedStep_fault h
    exact ⟨hr, rfl, hv⟩
  case txeng =>
    rw [step_txeng hturn] at h
    obtain ⟨t, ht⟩ := hi.takeTurn.txStep_next
    rw [ht] at h
    cases h
  case reset =>
    rw [step_reset hturn] at h
    cases h

/-- Settles O54: commands change STATE as `Effect.life_code` says, reset makes it UNINIT, and no agent changes it. -/
theorem stateTransitions : Obligations.StateTransitions := by
  intro s t h hne
  rcases step_cases h with ⟨hturn, rfl⟩ | ⟨-, -, hstep⟩ | ⟨-, -, -, rfl⟩ | ⟨-, -, w, rest, i, -, -, hcmd, hexec⟩ |
    ⟨-, -, w, rest, why, -, -, rfl⟩ | ⟨-, hstep⟩ | ⟨-, hstep⟩
  · exact .inl ⟨hturn, rfl⟩
  · exact absurd (hostByteStep_frame hstep).1.life hne
  · exact absurd rfl hne
  · rcases (exec_effect hexec).life_code with hsame | ⟨rfl, hl⟩ | ⟨rfl, hl⟩ | ⟨rfl, hl⟩
    · exact absurd hsame hne
    · exact .inr (.inl ⟨hcmd, hl⟩)
    · exact .inr (.inr (.inl ⟨hcmd, hl⟩))
    · exact .inr (.inr (.inr ⟨hcmd, hl⟩))
  · exact absurd rfl hne
  · exact absurd (schedStep_frame hstep).1.life hne
  · exact absurd (txStep_frame hstep).1.life hne

/-- Settles O55: a refusal sets REFUSED, and nothing but reset clears it. -/
theorem refusedIsSticky : Obligations.RefusedIsSticky := by
  intro s t hturn h hr
  rcases step_cases h with ⟨hreset, rfl⟩ | ⟨-, -, hstep⟩ | ⟨-, -, -, rfl⟩ | ⟨-, -, w, rest, i, -, -, hcmd, hexec⟩ |
    ⟨-, -, w, rest, why, -, -, rfl⟩ | ⟨-, hstep⟩ | ⟨-, hstep⟩
  · exact absurd hreset hturn
  · exact (hostByteStep_frame hstep).1.refused.trans hr
  · exact hr
  · rcases (exec_effect hexec).refusal with ⟨c, -, rfl⟩ | ⟨hsame, -⟩
    · rfl
    · exact hsame.trans hr
  · rfl
  · exact (schedStep_frame hstep).1.refused.trans hr
  · exact (txStep_frame hstep).1.refused.trans hr

/-- Settles O56: by what a command can do. -/
theorem refusalDoesNothingElse : Obligations.RefusalDoesNothingElse := fun _ _ _ h => (exec_effect h).refusal

/-- Settles O57: by the locks of the setters; the other agents write none of it. -/
theorem lockedConfiguration : Obligations.LockedConfiguration := by
  intro s t hturn h
  have hlocked : LockedSame s t := by
    rcases step_cases h with ⟨hreset, rfl⟩ | ⟨-, -, hstep⟩ | ⟨-, -, -, rfl⟩ | ⟨-, -, w, rest, i, -, -, hcmd, hexec⟩ |
      ⟨-, -, w, rest, why, -, -, rfl⟩ | ⟨-, hstep⟩ | ⟨-, hstep⟩
    · exact absurd hreset hturn
    · exact LockedSame.of_turn (rest := s.port) (hostByteStep_frame hstep).1.locked
    · exact .of_eq rfl rfl rfl rfl rfl rfl
    · exact (exec_effect hexec).lockedSame.of_turn
    · exact .of_eq rfl rfl rfl rfl rfl rfl
    · exact LockedSame.of_turn (rest := s.port) (schedStep_frame hstep).1.locked
    · exact LockedSame.of_turn (rest := s.port) (txStep_frame hstep).1.locked
  refine ⟨fun hl => ?_, hlocked.translator⟩
  obtain ⟨hw, hh, hm, hd, hb⟩ := hlocked.geometry hl
  exact ⟨hw, hh, hm, hd, hb, hlocked.derived hl⟩

/-- Settles O58: outside UNINIT only a byte step of HOST writes FB, at the address it stores to. -/
theorem oneByteAStep : Obligations.OneByteAStep := by
  intro s t hturn hl h a ha
  rcases step_cases h with ⟨hreset, rfl⟩ | ⟨hhost, -, hstep⟩ | ⟨-, -, -, rfl⟩ |
    ⟨-, -, w, rest, i, -, -, hcmd, hexec⟩ | ⟨-, -, w, rest, why, -, -, rfl⟩ | ⟨-, hstep⟩ | ⟨-, hstep⟩
  · exact absurd hreset hturn
  · exact (hostByteStep_frame hstep).2 a (ha hhost)
  · rfl
  · rw [(exec_effect hexec).fb_eq hl]
    rfl
  · rfl
  · rw [(schedStep_frame hstep).2]
    rfl
  · rw [(txStep_frame hstep).2]
    rfl

/-- Settles O59: each step reads the other registers alone, so it commutes with another BRIGHTNESS. -/
theorem brightnessHasNoEffect : Obligations.BrightnessHasNoEffect := fun s b =>
  ⟨fun _ hne => exec_withBrightness b s hne, schedStep_withBrightness b s, txStep_withBrightness b s,
    hostByteStep_withBrightness b s⟩

end Sys2Proof.Proofs

/-! PROOFS. The address lines (43_scheduler.md section 4): every step keeps them on the Gray-code walk. -/

namespace Sys2Proof.Machine

/-! ### The pins of GPO -/

/-- The five address lines of a pin value as a number (10_state.md R22). -/
def addressOf (g : BitVec 7) : Nat := (g &&& 0x1F#7).toNat

theorem State.rowAddress_eq (s : State) : s.rowAddress = addressOf s.gpo := rfl

theorem addressOf_unblank : ∀ g : BitVec 7, addressOf (g &&& ~~~Config.oeMask) = addressOf g := by decide

/-- In the later bit-planes of a row a TICK leaves the address lines (R164). -/
theorem addressOf_shownGpo_later (cmd : MuxCmd) (mask : BitVec 7) : ∀ g : BitVec 7,
    addressOf (shownGpo false cmd mask g) = addressOf g := by
  simp only [shownGpo, Bool.false_eq_true, if_false]
  decide

theorem addressOf_shownGpo_set : ∀ k < 5, ∀ g : BitVec 7,
    addressOf (shownGpo true .set (1#7 <<< k) g) = addressOf g ||| 2 ^ k := by decide

theorem addressOf_shownGpo_clr : ∀ k < 5, ∀ g : BitVec 7,
    addressOf (shownGpo true .clr (1#7 <<< k) g) = (addressOf g ||| 2 ^ k) ^^^ 2 ^ k := by decide

/-- A TICK ends with latch 0 (R164, step 3). -/
theorem shownGpo_latch (plane0 : Bool) (cmd : MuxCmd) (mask g : BitVec 7) :
    shownGpo plane0 cmd mask g &&& Config.latMask = 0 := by
  have hlow : ∀ x : BitVec 7,
      ((x ||| Config.latMask) &&& ~~~Config.latMask ||| Config.oeMask) &&& Config.latMask = 0 := by
    decide
  exact hlow _

/-! ### One position of the Gray-code walk -/

/-- Setting the line in which two codes differ, where the new code has it set. -/
theorem xor_line_set {g k : Nat} (h : g.testBit k = true) : (g ^^^ 2 ^ k) ||| 2 ^ k = g := by
  apply Nat.eq_of_testBit_eq
  intro j
  rw [Nat.testBit_or, Nat.testBit_xor, Nat.testBit_two_pow]
  by_cases hj : k = j
  · subst hj
    simp [h]
  · simp [hj]

/-- Clearing a line that a code does not have gives the code back, whether it was set or not. -/
theorem xor_line_clear {g k : Nat} (h : g.testBit k = false) :
    ((g ^^^ 2 ^ k) ||| 2 ^ k) ^^^ 2 ^ k = g ∧ (g ||| 2 ^ k) ^^^ 2 ^ k = g := by
  constructor <;>
  · apply Nat.eq_of_testBit_eq
    intro j
    simp only [Nat.testBit_or, Nat.testBit_xor, Nat.testBit_two_pow]
    by_cases hj : k = j
    · subst hj
      simp [h]
    · simp [hj]

/-- The position before the next one, across the wrap too. -/
theorem previous_of_next {n i : Nat} (h : i < n) : ((i + 1) % n + n - 1) % n = i := by
  rcases Nat.lt_or_eq_of_le (show i + 1 ≤ n from h) with hlt | rfl
  · rw [Nat.mod_eq_of_lt hlt, show i + 1 + n - 1 = i + n by omega, Nat.add_mod_right, Nat.mod_eq_of_lt h]
  · rw [Nat.mod_self, Nat.mod_eq_of_lt (by omega)]
    omega

section Lines

variable {s : State}

/-- What a MUXSEQ entry does to the address lines: from the code of the row before, or at row 0 from no line set, to the
code of the row (R86, R169). -/
theorem State.Inv.muxEntry_address (hi : s.Inv) (hl : s.life ≠ .uninit) {row : Nat}
    (hrow : row < s.der.rowpattern.toNat) {g : BitVec 7}
    (hg : addressOf g = gray ((row + s.der.rowpattern.toNat - 1) % s.der.rowpattern.toNat) ∨
      (row = 0 ∧ addressOf g = 0)) :
    addressOf (shownGpo true (s.muxEntry row).cmd (s.muxEntry row).mask g) = gray row := by
  obtain ⟨hm, -⟩ := (geometryOk_iff s.cfg).1 (hi.initialised hl).geometry
  rw [(hi.initialised hl).muxEntry_eq hrow]
  rw [(hi.sizesExact hl).rowpattern] at hrow hg ⊢
  obtain ⟨k, hk, hline⟩ := gray_xor_previous (by omega) hrow
  have hprev : gray ((row + 2 ^ s.cfg.muxbits.toNat - 1) % 2 ^ s.cfg.muxbits.toNat) = gray row ^^^ 2 ^ k := by
    rw [← hline, ← Nat.xor_assoc, Nat.xor_self, Nat.zero_xor]
  rw [hprev] at hg
  rw [muxSeqEntry_of_line (by omega) hline]
  cases hbit : (gray row).testBit k
  case true =>
    rcases hg with hg | ⟨rfl, -⟩
    · rw [if_pos rfl, addressOf_shownGpo_set k (by omega), hg, xor_line_set hbit]
    · exact absurd hbit (by simp [gray])
  case false =>
    rw [if_neg (by simp), addressOf_shownGpo_clr k (by omega)]
    rcases hg with hg | ⟨rfl, hg⟩
    · rw [hg, (xor_line_clear hbit).1]
    · rw [hg]
      exact (xor_line_clear (Nat.zero_testBit k)).2

/-- After a TICK the lines hold the Gray code of the row it showed (R169). -/
theorem State.Inv.tick_address (hi : s.Inv) (hL : s.LinesInv) {pos : RefreshPos} (hl : s.life = .armed pos) :
    addressOf (s.tick pos).gpo = gray pos.row.toNat := by
  have hrows := hL.rows pos hl
  rw [State.tick_gpo, showLine_gpo]
  split at hrows
  next hplane =>
    rw [decide_eq_true hplane]
    refine hi.muxEntry_address (by simp [hl]) (hi.position pos hl).row (hrows.imp_right ?_)
    rintro ⟨hrow, haddr⟩
    exact ⟨by rw [hrow]; rfl, haddr⟩
  next hplane => rw [decide_eq_false hplane, addressOf_shownGpo_later, ← hrows, State.rowAddress_eq]

theorem State.Inv.tick_lines (hi : s.Inv) (hL : s.LinesInv) {pos : RefreshPos} (hl : s.life = .armed pos) :
    (s.tick pos).LinesInv := by
  have hl' : s.life ≠ .uninit := by simp [hl]
  have hp := hi.position pos hl
  have haddr := hi.tick_address hL hl
  have hsizes := hi.sizesExact hl'
  have hnext := hi.advance_toNat hl' hp
  refine ⟨?unused, ?latch, fun h => ?blank, fun h => ?quiet, fun pos' hpos => ?rows⟩
  case unused =>
    rw [State.rowAddress_eq, haddr, State.tick_cfg, ← hsizes.rowpattern]
    exact hsizes.gray_lt hp.row
  case latch =>
    rw [State.tick_gpo, showLine_gpo]
    exact shownGpo_latch _ _ _ _
  case blank => rw [State.tick_life] at h; cases h
  case quiet => rw [State.tick_life] at h; cases h
  case rows =>
    rw [State.tick_life] at hpos
    obtain rfl := Life.armed.inj hpos
    rw [State.rowAddress_eq, haddr, State.tick_der]
    split at hnext
    next =>
      obtain ⟨hrow, hzero⟩ := hnext
      rw [if_pos (BitVec.eq_of_toNat_eq hzero), hrow]
      exact .inl (congrArg gray (previous_of_next hp.row).symm)
    next =>
      obtain ⟨hrow, hsucc⟩ := hnext
      rw [if_neg (fun h => by rw [h] at hsucc; simp at hsucc), hrow]

/-! ### Steps that leave GPO -/

/-- The lines invariant reads GPO, MUXBITS, STATE, ROW, PLANE and ROWPATTERN; in UNINIT GPO is 0, so MUXBITS is free. -/
theorem State.LinesInv.congr {t : State} (h : s.LinesInv) (hgpo : t.gpo = s.gpo) (hlife : t.life = s.life)
    (hmux : s.life ≠ .uninit → t.cfg.muxbits = s.cfg.muxbits) (hrp : t.der.rowpattern = s.der.rowpattern) :
    t.LinesInv where
  unused := by
    rw [State.rowAddress_eq, hgpo]
    by_cases hl : s.life = .uninit
    · rw [h.quiet hl]
      exact Nat.two_pow_pos _
    · rw [hmux hl]
      exact h.unused
  latch := hgpo ▸ h.latch
  blank hl := hgpo ▸ h.blank (hlife ▸ hl)
  quiet hl := hgpo ▸ h.quiet (hlife ▸ hl)
  rows pos hl := by
    rw [State.rowAddress_eq, hgpo, hrp]
    exact h.rows pos (hlife ▸ hl)

theorem State.LinesInv.init (h : s.LinesInv) (hl : s.life = .uninit) (z : Sizes) (n : Nat) :
    (s.initialised z n).LinesInv where
  unused := h.unused
  latch := h.latch
  blank _ := h.blank (by rw [hl]; rfl)
  quiet hq := by cases hq
  rows _ hr := by cases hr

/-- The lines MUXBITS..4 are 0, and clearing the others leaves no line set (R161). -/
theorem State.LinesInv.address_cleared (h : s.LinesInv) (hm : s.cfg.muxbits.toNat ≤ 5) :
    addressOf (s.gpo &&& ~~~usedLines s.cfg.muxbits.toNat) = 0 := by
  have hclear : ∀ m ≤ 5, ∀ g : BitVec 7, addressOf g < 2 ^ m → addressOf (g &&& ~~~usedLines m) = 0 := by decide
  exact hclear _ hm _ h.unused

theorem State.LinesInv.enable (h : s.LinesInv) (hm : s.cfg.muxbits.toNat ≤ 5) (c : BitVec 32) :
    ({ s.gpoClr (usedLines s.cfg.muxbits.toNat) with life := .armed ⟨0#5, 0#3, c⟩ }.timerArm
      s.der.baseticks).LinesInv where
  unused := by
    rw [State.rowAddress_eq, State.timerArm_gpo, State.gpoClr_gpo, h.address_cleared hm]
    exact Nat.two_pow_pos _
  latch := by
    rw [State.timerArm_gpo, State.gpoClr_gpo, BitVec.and_assoc, BitVec.and_comm (~~~_), ← BitVec.and_assoc, h.latch]
    exact BitVec.zero_and
  blank hb := by cases hb
  quiet hq := by cases hq
  rows pos hpos := by
    obtain rfl := Life.armed.inj hpos
    rw [if_pos rfl]
    exact .inr ⟨rfl, h.address_cleared hm⟩

theorem State.LinesInv.disable (h : s.LinesInv) :
    ({ (s.gpoClr Config.oeMask).timerDetach with life := .idle } : State).LinesInv where
  unused := by
    rw [State.rowAddress_eq, State.timerDetach_gpo, State.gpoClr_gpo, addressOf_unblank]
    exact h.unused
  latch := by
    rw [State.timerDetach_gpo, State.gpoClr_gpo, BitVec.and_assoc, BitVec.and_comm (~~~_), ← BitVec.and_assoc, h.latch]
    exact BitVec.zero_and
  blank _ := by
    rw [State.timerDetach_gpo, State.gpoClr_gpo, BitVec.and_assoc, BitVec.and_comm (~~~_), BitVec.and_not_self]
    exact BitVec.and_zero
  quiet hq := by cases hq
  rows _ hr := by cases hr

theorem exec_keeps_lines {i : Instr} {t : State} (hi : s.Inv) (hL : s.LinesInv) (h : exec i s = .next t) :
    t.LinesInv := by
  cases exec_effect h with
  | init hl hg hf n ht => exact hL.init hl _ n
  | setter _ c hc =>
    refine hL.congr rfl rfl (fun hl => ?_) rfl
    obtain ⟨-, -, hmux, -⟩ := hc.geo hl
    exact hmux
  | enable hl =>
    obtain ⟨hm, -⟩ := (geometryOk_iff s.cfg).1 (hi.initialised (by simp [hl])).geometry
    exact hL.enable (by omega) _
  | disable hl => exact hL.disable
  | swapIdle _ hl => exact hL.congr rfl hl.symm (fun _ => rfl) rfl
  | swapArmed _ pos hl =>
    exact {
      unused := hL.unused
      latch := hL.latch
      blank := fun hb => by cases hb
      quiet := fun hq => by cases hq
      rows := fun pos' hpos => Life.armed.inj hpos ▸ hL.rows pos hl }
  | _ => exact hL.congr rfl rfl (fun _ => rfl) rfl

theorem schedStep_keeps_lines {t : State} (hi : s.Inv) (hL : s.LinesInv) (h : s.schedStep = .next t) : t.LinesInv := by
  rcases schedStep_cases h with rfl | ⟨pos, hl, -, -, rfl⟩
  · exact hL
  · exact hi.tick_lines hL hl

theorem txStep_keeps_lines {t : State} (hL : s.LinesInv) (h : s.txStep = .next t) : t.LinesInv := by
  rcases txStep_cases h with rfl | ⟨-, -, v, -, rfl⟩ | ⟨-, -, rfl⟩
  all_goals exact hL.congr rfl rfl (fun _ => rfl) rfl

theorem hostByteStep_keeps_lines {t : State} (hL : s.LinesInv) (h : s.hostByteStep = .next t) : t.LinesInv := by
  rcases hostByteStep_cases h with ⟨rfl, -⟩ | ⟨-, fb, op, rfl, -⟩
  all_goals exact hL.congr rfl rfl (fun _ => rfl) rfl

end Lines

end Sys2Proof.Machine

namespace Sys2Proof.Proofs

open Sys2Proof.Machine

/-- Settles O52: by the agent whose turn it was; only ENABLE, DISABLE and a TICK write GPO. -/
theorem stepKeepsLines : Obligations.StepKeepsLines := by
  intro s t hi hL h
  have hLturn : s.takeTurn.LinesInv := hL.congr rfl rfl (fun _ => rfl) rfl
  rcases step_cases h with ⟨-, rfl⟩ | ⟨-, -, hstep⟩ | ⟨-, -, -, rfl⟩ | ⟨-, -, w, rest, i, -, -, -, hexec⟩ |
    ⟨-, -, w, rest, why, -, -, rfl⟩ | ⟨-, hstep⟩ | ⟨-, hstep⟩
  · exact linesInv_resetEvent _
  · exact hostByteStep_keeps_lines hLturn hstep
  · exact hLturn
  · exact exec_keeps_lines (hi.takeTurn.takeWord rest) (hLturn.congr rfl rfl (fun _ => rfl) rfl) hexec
  · exact hLturn.congr rfl rfl (fun _ => rfl) rfl
  · exact schedStep_keeps_lines hi.takeTurn hLturn hstep
  · exact txStep_keeps_lines hLturn hstep

end Sys2Proof.Proofs

/-! PROOFS. The byte steps of a command in progress (42_framebuffer.md R140, R145, R147, 20_memory.md R48): SETPIXEL's
scatter and its round trip, two SWAPs, the display buffer under pixel writes, and that commands finish. -/

namespace Sys2Proof.Machine

/-! ### The scatter of SETPIXEL (41_translator.md R133) -/

section Scatter

variable {s : State}

theorem State.SizesExact.sbs_le_bufsize (h : s.SizesExact) : s.der.sbs.toNat ≤ s.der.bufsize.toNat :=
  h.bufsize ▸ Nat.le_mul_of_pos_left _ h.rowpattern_pos

/-- Different channels and bit-planes of a pixel are different bytes. -/
theorem State.SizesExact.laneAddr_injective (h : s.SizesExact) {base p c p' c' : Nat} {redOff : Int} (hc : c < 3)
    (hc' : c' < 3) (heq : s.laneAddr base redOff p c = s.laneAddr base redOff p' c') : p = p' ∧ c = c' := by
  have hsbs := h.sbs
  have hle := h.sbs_le_bufsize
  have hpcb := h.pcb_pos
  have hlane {d : Nat} (hd : d < 3) : (2 - d) * s.der.pcb.toNat + 0 < 3 * s.der.pcb.toNat := unit_lt hpcb (by omega)
  have hsub {d : Nat} (hd : d < 3) : (2 - d) * s.der.pcb.toNat + d * s.der.pcb.toNat = 2 * s.der.pcb.toNat := by
    rw [← Nat.add_mul]
    congr 1
    omega
  have h1 := hlane hc
  have h1' := hlane hc'
  have h2 := hsub hc
  have h2' := hsub hc'
  simp only [State.laneAddr, ← Nat.cast_mul] at heq
  obtain ⟨hchannel, hplane⟩ := unit_inj (w := s.der.bufsize.toNat) (a := (2 - c) * s.der.pcb.toNat)
    (a' := (2 - c') * s.der.pcb.toNat) (k := p) (k' := p') (by omega) (by omega) (by omega)
  refine ⟨hplane, ?_⟩
  have := Nat.eq_of_mul_eq_mul_right hpcb hchannel
  omega

/-- What the first `n` byte steps of a scatter leave. -/
theorem hostByteSteps_scatter (hi : s.Inv) (hl : s.life ≠ .uninit) {base : Nat} {redOff : Int} {bit qR qG qB : Nat}
    (hok : ({ s with hostOp := .scatter base redOff bit qR qG qB 0 } : State).HostOpOk) {n : Nat}
    (hn : n ≤ 3 * s.cfg.colordepth.toNat) :
    ∃ t, ({ s with hostOp := .scatter base redOff bit qR qG qB 0 } : State).hostByteSteps n = .next t ∧
      t = { s with
        fb := t.fb
        hostOp := if n < 3 * s.cfg.colordepth.toNat then .scatter base redOff bit qR qG qB n else .ready } ∧
      (∀ p c, 3 * p + c < n → c < 3 → t.fb.read (s.laneAddr base redOff p c) =
        (s.fb.read (s.laneAddr base redOff p c)).map
          (putBit bit ((Channels.get ⟨qR, qG, qB⟩ c).testBit p))) ∧
      ∀ a : Int, (∀ p c, 3 * p + c < n → c < 3 → a ≠ s.laneAddr base redOff p c) → t.fb.read a = s.fb.read a := by
  have hsizes := hi.sizesExact hl
  obtain ⟨hbase, h2, hlt, -, hpos⟩ := hok
  have hinside (k : Nat) (hk : k < 3 * s.cfg.colordepth.toNat) :
      0 ≤ s.laneAddr base redOff (k / 3) (k % 3) ∧ s.laneAddr base redOff (k / 3) (k % 3) < (s.fb.size : Int) := by
    have hin := hsizes.laneAddr_inside (base := base) h2 hlt (p := k / 3) (by omega) (Nat.mod_lt k (by decide))
    exact State.bufferAt.exists_byte (s := s) hbase hin.1 hin.2
  have hdistinct (i j : Nat) (hij : i < j) (_ : j < 3 * s.cfg.colordepth.toNat) :
      s.laneAddr base redOff (i / 3) (i % 3) ≠ s.laneAddr base redOff (j / 3) (j % 3) := fun heq => by
    obtain ⟨hp, hc⟩ := hsizes.laneAddr_injective (Nat.mod_lt i (by decide)) (Nat.mod_lt j (by decide)) heq
    omega
  obtain ⟨t, hrun, hframe, hwritten, hkept⟩ := hostByteSteps_run
    (cfg := s.cfg) (der := s.der) (size := s.fb.size) (N := 3 * s.cfg.colordepth.toNat)
    (op := .scatter base redOff bit qR qG qB)
    (src := fun k => s.laneAddr base redOff (k / 3) (k % 3)) (dst := fun k => s.laneAddr base redOff (k / 3) (k % 3))
    (f := fun k => putBit bit ((Channels.get ⟨qR, qG, qB⟩ (k % 3)).testBit (k / 3)))
    (fun t hcfg hder k _ hop => by
      simp only [State.hostByteStep, hop, State.scatterStep, State.laneAddr, hcfg, hder])
    hinside hinside hdistinct (fun i j hij hj => (hdistinct i j hij hj).symm)
    n 0 { s with hostOp := .scatter base redOff bit qR qG qB 0 } (by omega) rfl rfl rfl (by rw [if_pos hpos])
  rw [Nat.zero_add] at hframe hwritten hkept
  refine ⟨t, hrun, hframe, fun p c hpc hc => ?_, fun a ha => hkept a fun j _ hj => ?_⟩
  · have hread := hwritten (3 * p + c) (Nat.zero_le _) hpc
    rwa [show (3 * p + c) / 3 = p by omega, show (3 * p + c) % 3 = c by omega] at hread
  · exact ha (j / 3) (j % 3) (by omega) (Nat.mod_lt j (by decide))

theorem Channels.Below.get_lt {n : Nat} {ch : Channels} (h : ch.Below n) (c : Nat) : ch.get c < n := by
  unfold Channels.get
  split
  · exact h.red
  · exact h.green
  · exact h.blue

/-- The value a pixel holds where the bits of its channel, bit-plane by bit-plane, are those of `q` (R133). -/
theorem State.pixelValue_of_bits {base bit c q : Nat} {redOff : Int}
    (h : ∀ p, p < s.cfg.colordepth.toNat →
      ∃ v, s.fb.read (s.laneAddr base redOff p c) = some v ∧ v.getLsbD bit = q.testBit p) :
    s.pixelValue base redOff bit c = q % 2 ^ s.cfg.colordepth.toNat := by
  rw [State.pixelValue, ← bits_sum]
  refine congrArg List.sum (List.map_congr_left fun p hp => ?_)
  obtain ⟨v, hread, hv⟩ := h p (List.mem_range.1 hp)
  simp only [hread, hv]

end Scatter

/-! ### The number of byte steps left (20_memory.md R48) -/

section Finish

variable {s : State}

theorem stepsLeft_ready (ho : s.hostOp = .ready) : s.stepsLeft = 0 := by simp only [State.stepsLeft, ho]

/-- A byte step is one fewer to take. -/
theorem State.Inv.stepsLeft_step (hi : s.Inv) (ho : s.hostOp ≠ .ready) {t : State} (h : s.hostByteStep = .next t) :
    t.stepsLeft + 1 = s.stepsLeft := by
  obtain ⟨src, dst, f, k, n, op, hstep⟩ := hi.nextByteStep ho
  have hmore := hstep.more
  obtain ⟨old, fb, -, -, rfl⟩ := State.byteStep_cases (hstep.step.symm.trans h)
  rw [hstep.left]
  rcases afterStep_cases k n op with ⟨hn, hop⟩ | ⟨hn, hop⟩ <;> rw [hop]
  · rw [hstep.leftNext]
    omega
  · rw [stepsLeft_ready rfl]
    omega

theorem State.Inv.stepsLeft_pos (hi : s.Inv) (ho : s.hostOp ≠ .ready) : 0 < s.stepsLeft := by
  obtain ⟨t, ht⟩ := hi.hostByteStep_next
  have := hi.stepsLeft_step ho ht
  omega

/-- The steps left are enough to finish the command. -/
theorem State.Inv.finishes {n : Nat} : ∀ {s : State}, s.Inv → s.stepsLeft = n →
    ∃ t, s.hostByteSteps n = .next t ∧ t.hostOp = .ready := by
  induction n with
  | zero =>
    intro s hi hleft
    refine ⟨s, rfl, ?_⟩
    by_contra ho
    exact absurd (hi.stepsLeft_pos ho) (by omega)
  | succ n ih =>
    intro s hi hleft
    have ho : s.hostOp ≠ .ready := fun ho => by rw [stepsLeft_ready ho] at hleft; omega
    obtain ⟨t, ht⟩ := hi.hostByteStep_next
    have hstep := hi.stepsLeft_step ho ht
    obtain ⟨u, hrun, hready⟩ := ih (hostByteStep_keeps_inv hi ht) (by omega)
    exact ⟨u, by simp only [State.hostByteSteps, ht, hrun], hready⟩

end Finish

end Sys2Proof.Machine

namespace Sys2Proof.Proofs

open Sys2Proof.Machine

/-- Settles O30: the first step names the buffer and the lanes, and each byte step writes one lane of its own. -/
theorem setpixelWritesEveryLane : Obligations.SetpixelWritesEveryLane := by
  intro s x y redOff r g b bit hi hl hplace
  have hdepth := hi.colordepthLegal.1
  have hok := hi.started_ok hl (.pixel x y redOff ⟨r, g, b⟩ bit hplace (by omega))
  have ⟨hbase, h2, hlt, hbit, _⟩ := hok
  refine ⟨_, startPixel_place hl hdepth hplace ⟨r, g, b⟩, fun n hn => ?_⟩
  obtain ⟨t, hrun, hframe, hwritten, hkept⟩ := hostByteSteps_scatter hi hl hok hn
  refine ⟨t, hrun, hframe, fun p c hpc hc => ?_, hkept⟩
  have hin := (hi.sizesExact hl).laneAddr_inside (base := s.editBase) h2 hlt (p := p) (by omega) hc
  have hex := State.bufferAt.exists_byte (s := s) hbase hin.1 hin.2
  have hread := hwritten p c hpc hc
  rw [Memory.read_eq_some hex.1 hex.2] at hread
  obtain ⟨hset, hrest⟩ := putBit_bits bit hbit (((s.wireValues ⟨r, g, b⟩).get c).testBit p)
    (s.fb.byteAt (s.laneAddr s.editBase redOff p c).toNat)
  exact ⟨_, _, Memory.read_eq_some hex.1 hex.2, hread, hset, hrest⟩

/-- Settles O31: by O30 the bits in memory are those of the wire value, which has COLORDEPTH bits. -/
theorem pixelRoundTrip : Obligations.PixelRoundTrip := by
  intro s t1 t x y redOff r g b bit c hi hl hr hg hb hc hplace hexec hrun
  obtain ⟨t1', hexec', hsteps⟩ := setpixelWritesEveryLane s x y redOff r g b bit hi hl hplace
  obtain rfl : t1 = t1' := Host.Outcome.next.inj (hexec.symm.trans hexec')
  obtain ⟨t', hrun', hframe, hwritten, -⟩ := hsteps _ (Nat.le_refl _)
  obtain rfl : t = t' := Host.Outcome.next.inj (hrun.symm.trans hrun')
  have hcfg : t.cfg = s.cfg := by rw [hframe]
  have hder : t.der = s.der := by rw [hframe]
  have hlane (p : Nat) : t.laneAddr s.editBase redOff p c = s.laneAddr s.editBase redOff p c := by
    simp only [State.laneAddr, hder]
  have hbelow : (⟨r, g, b⟩ : Channels).Below (2 ^ 8) :=
    ⟨Nat.lt_succ_of_le hr, Nat.lt_succ_of_le hg, Nat.lt_succ_of_le hb⟩
  rw [State.pixelValue_of_bits (q := (s.wireValues ⟨r, g, b⟩).get c), hcfg,
    Nat.mod_eq_of_lt ((State.wireValues_below hbelow hi.colordepthLegal.2).get_lt c)]
  intro p hp
  rw [hcfg] at hp
  obtain ⟨old, v, -, hread, hv, -⟩ := hwritten p c (by omega) hc
  exact ⟨v, by rw [hlane, hread], hv⟩

/-- Settles O37: SEL flips back, and CURSOR is again what its row and bit-plane give (R29). -/
theorem swapTwiceRestores : Obligations.SwapTwiceRestores := by
  intro s t u hi hst htu hl
  cases hd : s.cfg.dbuf
  case false =>
    rw [exec_swap_oneBuffer hl hd] at hst
    obtain rfl := Host.Outcome.next.inj hst
    rw [exec_swap_oneBuffer hl hd] at htu
    exact (Host.Outcome.next.inj htu).symm
  cases hlife : s.life
  case uninit => exact absurd hlife hl
  case idle =>
    obtain rfl := Host.Outcome.next.inj (hst.symm.trans (exec_swap_idle hlife hd))
    obtain rfl := Host.Outcome.next.inj
      (htu.symm.trans (exec_swap_idle (s := { s with sel := !s.sel }) hlife hd))
    simp only [Bool.not_not]
  case armed pos =>
    have ht := Host.Outcome.next.inj (hst.symm.trans (exec_swap_armed hlife hd))
    have htlife := congrArg State.life ht
    have htd : t.cfg.dbuf = true := by rw [ht]; exact hd
    obtain rfl := Host.Outcome.next.inj (htu.symm.trans (exec_swap_armed htlife htd))
    have hcursor : BitVec.ofNat 32 (s.storageBase s.sel + (s.muxEntry pos.row.toNat).offset.toNat
        + pos.plane.toNat * s.der.bufsize.toNat) = pos.cursor := by
      have hp := (hi.position pos hlife).cursor
      rw [State.dispBase, if_pos hd] at hp
      rw [← hp, BitVec.ofNat_toNat, BitVec.setWidth_eq]
    subst ht
    have hback : ({ s with life := .armed { pos with
        cursor := BitVec.ofNat 32 (s.storageBase s.sel + (s.muxEntry pos.row.toNat).offset.toNat
          + pos.plane.toNat * s.der.bufsize.toNat) } } : State) = s := by rw [hcursor, ← hlife]
    refine Eq.trans ?_ hback
    simp only [Bool.not_not]
    rfl

/-- Settles O38: the byte stored lies in the edit buffer, which shares none with the display buffer. -/
theorem pixelWritesKeepTheDisplay : Obligations.PixelWritesKeepTheDisplay := by
  intro s t redOff bit qR qG qB k hi hd hl hop h a h0 h1
  have hok := hi.command
  simp only [State.HostOpOk, hop] at hok
  obtain ⟨-, h2, hlt, -, hk⟩ := hok
  have hin := (hi.sizesExact hl).laneAddr_inside (base := s.editBase) h2 hlt (p := k / 3) (by omega)
    (Nat.mod_lt k (by decide))
  have hapart := State.buffersApart_disp_edit hd
  unfold State.buffersApart at hapart
  refine (hostByteStep_frame h).2 a fun hstore => ?_
  simp only [State.storeAddr, hop, Option.some.injEq] at hstore
  omega

/-- Settles O39: each byte step is one fewer to take, and with none left the command is over. -/
theorem commandsFinish : Obligations.CommandsFinish := by
  intro s hi
  refine ⟨?_, hi.finishes rfl, fun t ho h => hi.stepsLeft_step ho h⟩
  by_cases ho : s.hostOp = .ready
  · rw [stepsLeft_ready ho]
    exact Nat.zero_le _
  · obtain ⟨src, dst, f, k, n, op, hstep⟩ := hi.nextByteStep ho
    rw [hstep.left]
    exact (Nat.sub_le n k).trans hstep.bound

end Sys2Proof.Proofs

/-! PROOFS. TICK and the serial engine (43_scheduler.md R164 to R171): the seven steps, the walk of the refresh
position, the show-ticks of a pass, and a transfer from its first byte to its last. -/

namespace Sys2Proof.Machine

/-! ### The trace of a TICK (R164) -/

/-- The event of a MUXSEQ entry (R164, step 2). -/
def muxEvent (e : MuxEntry) : TraceEvent :=
  match e.cmd with
  | .set => .gpoSet e.mask
  | .clr => .gpoClr e.mask

/-- Steps 1 to 4 of a TICK put these events on the trace. -/
def lineEvents (pos : RefreshPos) (e : MuxEntry) : List TraceEvent :=
  [.gpoClr Config.oeMask] ++ (if pos.plane = 0#3 then [muxEvent e] else []) ++
    [.gpoSet Config.latMask, .gpoClr Config.latMask, .gpoSet Config.oeMask]

theorem showLine_trace (s : State) (pos : RefreshPos) :
    (s.showLine pos).trace = s.trace ++ lineEvents pos (s.muxEntry pos.row.toNat) := by
  have hentry : (State.gpoClr Config.oeMask s).muxEntry pos.row.toNat = s.muxEntry pos.row.toNat := rfl
  unfold State.showLine lineEvents muxEvent State.applyMux
  simp only [hentry]
  by_cases hplane : pos.plane = 0#3
  · simp only [hplane, if_true]
    cases (s.muxEntry pos.row.toNat).cmd <;> simp
  · simp [hplane]

/-! ### The walk of the refresh position (R165) -/

/-- The refresh position is the one `n` TICKs lead to from the start: row `n` div COLORDEPTH, cyclically, and bit-plane
`n` mod COLORDEPTH. -/
structure State.AtTick (s : State) (n : Nat) (pos : RefreshPos) : Prop where
  armed : s.life = .armed pos
  row : pos.row.toNat = n / s.cfg.colordepth.toNat % s.der.rowpattern.toNat
  plane : pos.plane.toNat = n % s.cfg.colordepth.toNat

/-- Counting on in mixed radix: the low digit wraps exactly where it is the last one. -/
theorem succ_div_mod {d : Nat} (hd : 0 < d) (n : Nat) :
    if n % d + 1 = d then (n + 1) / d = n / d + 1 ∧ (n + 1) % d = 0
    else (n + 1) / d = n / d ∧ (n + 1) % d = n % d + 1 := by
  have hlt := Nat.mod_lt n hd
  have hn := Nat.div_add_mod n d
  split
  next h =>
    have hsucc : n + 1 = d * (n / d + 1) := by rw [Nat.mul_succ]; omega
    rw [hsucc]
    exact ⟨by rw [Nat.mul_div_cancel_left _ hd], Nat.mul_mod_right _ _⟩
  next h =>
    have hsucc : n + 1 = d * (n / d) + (n % d + 1) := by omega
    have hlt' : n % d + 1 < d := by omega
    constructor
    · conv_lhs => rw [hsucc]
      rw [Nat.mul_add_div hd, Nat.div_eq_of_lt hlt', Nat.add_zero]
    · conv_lhs => rw [hsucc]
      rw [Nat.mul_add_mod, Nat.mod_eq_of_lt hlt']

section Walk

variable {s : State}

theorem State.AtTick.ready {n : Nat} {pos : RefreshPos} (h : s.AtTick n pos) : s.life ≠ .uninit := by
  rw [h.armed]
  nofun

/-- A TICK goes on to the next position of the walk. -/
theorem State.Inv.tick_atTick (hi : s.Inv) {n : Nat} {pos : RefreshPos} (h : s.AtTick n pos) :
    (s.tick pos).AtTick (n + 1) (s.advance pos) := by
  have hnext := hi.advance_toNat h.ready (hi.position pos h.armed)
  have hdigits := succ_div_mod hi.colordepthLegal.1 n
  rw [h.plane] at hnext
  refine ⟨by simp, ?_, ?_⟩ <;> simp only [State.tick_cfg, State.tick_der] <;> split at hnext
  next hlast => rw [if_pos hlast] at hdigits; rw [hnext.1, h.row, hdigits.1, Nat.mod_add_mod]
  next hlast => rw [if_neg hlast] at hdigits; rw [hnext.1, h.row, hdigits.1]
  next hlast => rw [if_pos hlast] at hdigits; rw [hnext.2, hdigits.2]
  next hlast => rw [if_neg hlast] at hdigits; rw [hnext.2, hdigits.2]

theorem ticks_succ {pos : RefreshPos} (hl : s.life = .armed pos) (n : Nat) :
    s.ticks (n + 1) = (s.tick pos).ticks n := by
  simp only [State.ticks, hl]

/-- `n` TICKs go on `n` positions of the walk. -/
theorem ticks_atTick (n : Nat) : ∀ {s : State} {m : Nat} {pos : RefreshPos}, s.Inv → s.AtTick m pos →
    (∃ p, (s.ticks n).life = .armed p ∧
      p.row.toNat = (m + n) / s.cfg.colordepth.toNat % s.der.rowpattern.toNat ∧
      p.plane.toNat = (m + n) % s.cfg.colordepth.toNat) ∧
    tickCount (s.ticks n).trace = tickCount s.trace + n := by
  induction n with
  | zero => intro s m pos hi h; exact ⟨⟨pos, h.armed, h.row, h.plane⟩, rfl⟩
  | succ n ih =>
    intro s m pos hi h
    obtain ⟨hp, hcount⟩ := ih (hi.tick h.armed) (hi.tick_atTick h)
    rw [ticks_succ h.armed]
    simp only [State.tick_cfg, State.tick_der, tick_tickCount] at hp hcount
    rw [Nat.add_right_comm, Nat.add_assoc] at hp
    exact ⟨hp, by omega⟩

/-- Every refresh position is on the walk. -/
theorem State.PositionOk.atTick {pos : RefreshPos} (hp : s.PositionOk pos) (hl : s.life = .armed pos) :
    s.AtTick (pos.row.toNat * s.cfg.colordepth.toNat + pos.plane.toNat) pos := by
  have hd : 0 < s.cfg.colordepth.toNat := Nat.zero_lt_of_lt hp.plane
  refine ⟨hl, ?_, ?_⟩ <;> rw [Nat.mul_comm]
  · rw [Nat.mul_add_div hd, Nat.div_eq_of_lt hp.plane, Nat.add_zero, Nat.mod_eq_of_lt hp.row]
  · rw [Nat.mul_add_mod, Nat.mod_eq_of_lt hp.plane]

/-! ### The show-ticks of a pass (R171) -/

theorem armedTotal_append (es fs : List TraceEvent) : armedTotal (es ++ fs) = armedTotal es + armedTotal fs := by
  induction es with
  | nil => simp [armedTotal]
  | cons e es ih => cases e <;> simp only [List.cons_append, armedTotal, ih, Nat.add_assoc]

theorem armedTotal_lineEvents (pos : RefreshPos) (e : MuxEntry) : armedTotal (lineEvents pos e) = 0 := by
  unfold lineEvents muxEvent
  split
  · cases e.cmd <;> rfl
  · rfl

/-- The count of any bit-plane fits the timer (R85). -/
theorem State.Inv.count_lt (hi : s.Inv) (hl : s.life ≠ .uninit) {p : Nat} (hp : p < s.cfg.colordepth.toNat) :
    s.der.baseticks.toNat * 2 ^ p < 2 ^ 32 := by
  obtain ⟨-, -, hfit⟩ := baseticks_some (hi.initialised hl).ticks
  exact (Nat.mul_le_mul_left _ (Nat.pow_le_pow_right Nat.two_pos (by omega))).trans_lt hfit

/-- A TICK arms the timer for the bit-plane it goes on to (R166). -/
theorem State.Inv.tick_armedTotal (hi : s.Inv) {n : Nat} {pos : RefreshPos} (h : s.AtTick n pos) :
    armedTotal (s.tick pos).trace =
      armedTotal s.trace + s.der.baseticks.toNat * 2 ^ ((n + 1) % s.cfg.colordepth.toNat) := by
  have hplane := (hi.tick_atTick h).plane
  rw [State.tick_cfg] at hplane
  have hfit := hi.count_lt h.ready (Nat.mod_lt (n + 1) hi.colordepthLegal.1)
  rw [State.tick_trace, showLine_trace, armedTotal_append, armedTotal_append, armedTotal_lineEvents, hplane]
  simp only [armedTotal, BitVec.toNat_ofNat, Nat.mod_eq_of_lt hfit, Nat.add_zero]

theorem ticks_armedTotal (n : Nat) : ∀ {s : State} {m : Nat} {pos : RefreshPos}, s.Inv → s.AtTick m pos →
    armedTotal (s.ticks n).trace = armedTotal s.trace +
      s.der.baseticks.toNat * ∑ j ∈ Finset.range n, 2 ^ ((m + 1 + j) % s.cfg.colordepth.toNat) := by
  induction n with
  | zero => intro s m pos hi h; rfl
  | succ n ih =>
    intro s m pos hi h
    rw [ticks_succ h.armed, ih (hi.tick h.armed) (hi.tick_atTick h), hi.tick_armedTotal h, Finset.sum_range_succ',
      State.tick_cfg, State.tick_der, Nat.mul_add, Nat.add_assoc, Nat.add_comm (s.der.baseticks.toNat * 2 ^ _)]
    have hshift : ∑ j ∈ Finset.range n, 2 ^ ((m + 1 + 1 + j) % s.cfg.colordepth.toNat) =
        ∑ j ∈ Finset.range n, 2 ^ ((m + 1 + (j + 1)) % s.cfg.colordepth.toNat) :=
      Finset.sum_congr rfl fun j _ => by rw [Nat.add_assoc (m + 1), Nat.add_comm 1 j]
    rw [hshift, Nat.add_zero]

end Walk

/-- One round of bit-planes, from any of them, has weight 2^d - 1. -/
theorem sum_round (d m : Nat) : ∑ j ∈ Finset.range d, 2 ^ ((m + j) % d) = 2 ^ d - 1 := by
  induction m with
  | zero =>
    rw [← Nat.geomSum_eq (Nat.le_refl 2) d |>.trans (Nat.div_one _)]
    exact Finset.sum_congr rfl fun j hj => by rw [Nat.zero_add, Nat.mod_eq_of_lt (Finset.mem_range.1 hj)]
  | succ m ih =>
    have hshift := (Finset.sum_range_succ (fun j => 2 ^ ((m + j) % d)) d).symm.trans
      (Finset.sum_range_succ' (fun j => 2 ^ ((m + j) % d)) d)
    rw [ih, Nat.add_mod_right, Nat.add_zero] at hshift
    rw [Nat.add_right_cancel hshift]
    exact Finset.sum_congr rfl fun j _ => by rw [Nat.add_right_comm, Nat.add_assoc]

/-- `r` rounds of bit-planes. -/
theorem sum_rounds (r d m : Nat) : ∑ j ∈ Finset.range (r * d), 2 ^ ((m + j) % d) = r * (2 ^ d - 1) := by
  induction r with
  | zero => simp
  | succ r ih =>
    rw [Nat.succ_mul, Finset.sum_range_add, ih, Nat.succ_mul]
    simp only [← Nat.add_assoc, sum_round]

/-! ### A transfer (R168) -/

/-- With `n` bytes still to send, the engine sends them and completes. -/
theorem txSteps_send (n : Nat) : ∀ {s : State}, s.tx.busy = true → s.tx.pos.toNat + n = s.tx.len.toNat →
    s.tx.addr.toNat + s.tx.len.toNat ≤ s.fb.size →
    s.txSteps (n + 1) = .next { s with
      tx := { s.tx with busy := false, pos := s.tx.len }
      trace := s.trace ++ (List.range n).map
        (fun i => TraceEvent.txByte (s.fb.byteAt (s.tx.addr.toNat + s.tx.pos.toNat + i))) ++ [.txDone] } := by
  induction n with
  | zero =>
    intro s hb hpos hin
    have hp : s.tx.pos = s.tx.len := BitVec.eq_of_toNat_eq hpos
    simp only [State.txSteps, txStep_done hb hp, State.emit, hp]
    simp
  | succ n ih =>
    intro s hb hpos hin
    have hnext : (BitVec.ofNat 32 (s.tx.pos.toNat + 1)).toNat = s.tx.pos.toNat + 1 := by
      rw [BitVec.toNat_ofNat, Nat.mod_eq_of_lt (by omega)]
    rw [State.txSteps, txStep_byte hb (by omega) (by omega)]
    refine Eq.trans (ih ?busy ?left ?inside) ?_
    case busy => exact hb
    case inside => exact hin
    case left => simp only [State.emit_tx, hnext]; omega
    simp only [State.emit, hnext, List.range_succ_eq_map, List.map_cons, List.map_map, List.append_assoc,
      List.cons_append, List.nil_append, Nat.add_zero, Function.comp_def, Nat.succ_eq_add_one, Nat.add_assoc,
      Nat.add_comm 1]

end Sys2Proof.Machine

namespace Sys2Proof.Proofs

open Sys2Proof.Machine

/-- Settles O42: the pins and the trace of steps 1 to 4, then the advance, the transfer and the timer. -/
theorem tickSevenSteps : Obligations.TickSevenSteps := by
  refine ⟨fun s pos => schedStep_violation, fun s pos new e hl ht hb he hnew => ?_⟩
  have hadvance : new = s.advance pos := hnew
  rw [schedStep_tick hl ht hb, State.tick_eq, showLine_gpo, showLine_trace, ← he, ← hadvance]
  congr 2
  case e_gpo =>
    simp only [shownGpo, decide_eq_true_eq]
    rfl
  case e_trace =>
    simp only [lineEvents, List.append_assoc]
    rfl

/-- Settles O45: the start position is position 0 of the walk. -/
theorem ticksWalkRowsAndPlanes : Obligations.TicksWalkRowsAndPlanes := by
  intro s pos n hi hl hrow hplane
  have hstart : s.AtTick 0 pos := ⟨hl, by rw [hrow]; simp, by rw [hplane]; simp⟩
  obtain ⟨⟨p, hp, hprow, hpplane⟩, hcount⟩ := ticks_atTick n hi hstart
  rw [Nat.zero_add] at hprow hpplane
  exact ⟨p, hp, hprow, hpplane, hcount⟩

/-- Settles O46: a pass is ROWPATTERN rounds of the bit-planes. -/
theorem passArmsTheWholeImage : Obligations.PassArmsTheWholeImage := by
  intro s pos hi hl
  rw [ticks_armedTotal _ hi ((hi.position pos hl).atTick hl), sum_rounds]
  ring

/-- Settles O47: by the number of bytes still to send. -/
theorem transferSendsItsBytes : Obligations.TransferSendsItsBytes := fun _ hb hpos hin =>
  txSteps_send _ hb (by omega) hin

end Sys2Proof.Proofs
